-- ==== Sys2Proof/Word.lean ====
section
/-! DEFINITION. The words of the core and the names of its operand fields (00_scope.md R9, R11, R12). -/

namespace Sys2Proof

/-- A register, a memory byte or an 8-bit immediate: 8 bits, unsigned (R9, R12). -/
abbrev Byte := BitVec 8

/-- `pc`, `I`, a stack entry or an instruction word: 16 bits, unsigned (R9, R80). -/
abbrev Word := BitVec 16

/-- The `NNN` field of an instruction word: 12 bits, unsigned (R81). -/
abbrev Addr12 := BitVec 12

/-- The `X` or `Y` field: a 4-bit register index, in range by construction (R21, R81). -/
abbrev Reg := Fin 16

/-- The `N` field of `DXYN`: a 4-bit count of sprite rows, 0..15 (R83). -/
abbrev RowCount := Fin 16

end Sys2Proof
end

