-- ==== Sys2Proof/Syntax.lean ====
section
/-! DEFINITION. The 33 instructions of 30_encoding.md R85, one constructor per row of
spec/opcode_table.json, with the operands R83 gives them. -/

namespace Sys2Proof

/-- An instruction. `x` and `y` are the register indices `X` and `Y`, `nn` the immediate `NN`, `nnn` the
address `NNN`, `n` the row count `N` (R81). -/
inductive Instr where
  /-- `00E0` CLS (R100). -/
  | cls
  /-- `00EE` RET (R120). -/
  | ret
  /-- `1NNN` JP NNN (R121). -/
  | jp (nnn : Addr12)
  /-- `2NNN` CALL NNN (R122). -/
  | call (nnn : Addr12)
  /-- `3XNN` SE Vx, NN (R123). -/
  | seImm (x : Reg) (nn : Byte)
  /-- `4XNN` SNE Vx, NN (R124). -/
  | sneImm (x : Reg) (nn : Byte)
  /-- `5XY0` SE Vx, Vy (R125). -/
  | seReg (x y : Reg)
  /-- `6XNN` LD Vx, NN (R153). -/
  | ldImm (x : Reg) (nn : Byte)
  /-- `7XNN` ADD Vx, NN (R154). -/
  | addImm (x : Reg) (nn : Byte)
  /-- `8XY0` LD Vx, Vy (R155). -/
  | ldReg (x y : Reg)
  /-- `8XY1` OR Vx, Vy (R156). -/
  | orReg (x y : Reg)
  /-- `8XY2` AND Vx, Vy (R157). -/
  | andReg (x y : Reg)
  /-- `8XY3` XOR Vx, Vy (R158). -/
  | xorReg (x y : Reg)
  /-- `8XY4` ADD Vx, Vy (R159). -/
  | addReg (x y : Reg)
  /-- `8XY5` SUB Vx, Vy (R160). -/
  | subReg (x y : Reg)
  /-- `8XY6` SHR Vx, Vy (R161). -/
  | shrReg (x y : Reg)
  /-- `8XY7` SUBN Vx, Vy (R162). -/
  | subnReg (x y : Reg)
  /-- `8XYE` SHL Vx, Vy (R163). -/
  | shlReg (x y : Reg)
  /-- `9XY0` SNE Vx, Vy (R126). -/
  | sneReg (x y : Reg)
  /-- `ANNN` LD I, NNN (R164). -/
  | ldI (nnn : Addr12)
  /-- `BNNN` JP V0, NNN; its `X` is `NNN`'s top nibble (R82, R127). -/
  | jpV0 (nnn : Addr12)
  /-- `CXNN` RND Vx, NN (R165). -/
  | rnd (x : Reg) (nn : Byte)
  /-- `DXYN` DRW Vx, Vy, N (R102). -/
  | drw (x y : Reg) (n : RowCount)
  /-- `EX9E` SKP Vx (R191). -/
  | skp (x : Reg)
  /-- `EXA1` SKNP Vx (R192). -/
  | sknp (x : Reg)
  /-- `FX07` LD Vx, DT (R193). -/
  | ldVxDT (x : Reg)
  /-- `FX0A` LD Vx, K (R196). -/
  | ldVxK (x : Reg)
  /-- `FX15` LD DT, Vx (R194). -/
  | ldDTVx (x : Reg)
  /-- `FX18` LD ST, Vx (R195). -/
  | ldSTVx (x : Reg)
  /-- `FX1E` ADD I, Vx (R166). -/
  | addIVx (x : Reg)
  /-- `FX33` LD B, Vx (R197). -/
  | bcd (x : Reg)
  /-- `FX55` LD [I], Vx (R198). -/
  | storeRegs (x : Reg)
  /-- `FX65` LD Vx, [I] (R199). -/
  | loadRegs (x : Reg)
  deriving DecidableEq, Repr

end Sys2Proof
end

