-- ==== Sys2Proof/Decode.lean ====
section
/-! DEFINITION. The decoder of 30_encoding.md R84, a total function from words, and from bytes, to an
instruction or a rejection with a name; and the encoder, from the formats of R82. -/

namespace Sys2Proof

/-! ## The fields of a word (R81) -/

/-- The opcode family `F = w[15:12]`. -/
def fieldF (w : Word) : Nat := (w.extractLsb' 12 4).toNat

/-- `X = w[11:8]`. -/
def fieldX (w : Word) : Reg := (w.extractLsb' 8 4).toFin

/-- `Y = w[7:4]`. -/
def fieldY (w : Word) : Reg := (w.extractLsb' 4 4).toFin

/-- `N = w[3:0]`. -/
def fieldN (w : Word) : RowCount := (w.extractLsb' 0 4).toFin

/-- `NN = w[7:0]`. -/
def fieldNN (w : Word) : Byte := w.extractLsb' 0 8

/-- `NNN = w[11:0]`. -/
def fieldNNN (w : Word) : Addr12 := w.extractLsb' 0 12

/-- `X = w[11:8]` of a `BNNN` word, read from its `NNN` (R82). -/
def addrX (nnn : Addr12) : Reg := (nnn.extractLsb' 8 4).toFin

/-! ## Decode (R84) -/

/-- Family 8: the low nibble selects the operation. -/
def decode8 (w : Word) : Option Instr :=
  match (fieldN w).val with
  | 0x0 => some (.ldReg (fieldX w) (fieldY w))
  | 0x1 => some (.orReg (fieldX w) (fieldY w))
  | 0x2 => some (.andReg (fieldX w) (fieldY w))
  | 0x3 => some (.xorReg (fieldX w) (fieldY w))
  | 0x4 => some (.addReg (fieldX w) (fieldY w))
  | 0x5 => some (.subReg (fieldX w) (fieldY w))
  | 0x6 => some (.shrReg (fieldX w) (fieldY w))
  | 0x7 => some (.subnReg (fieldX w) (fieldY w))
  | 0xE => some (.shlReg (fieldX w) (fieldY w))
  | _ => none

/-- Family E: the low byte selects the operation. -/
def decodeE (w : Word) : Option Instr :=
  if fieldNN w = 0x9E#8 then some (.skp (fieldX w))
  else if fieldNN w = 0xA1#8 then some (.sknp (fieldX w))
  else none

/-- Family F: the low byte selects the operation. -/
def decodeF (w : Word) : Option Instr :=
  if fieldNN w = 0x07#8 then some (.ldVxDT (fieldX w))
  else if fieldNN w = 0x0A#8 then some (.ldVxK (fieldX w))
  else if fieldNN w = 0x15#8 then some (.ldDTVx (fieldX w))
  else if fieldNN w = 0x18#8 then some (.ldSTVx (fieldX w))
  else if fieldNN w = 0x1E#8 then some (.addIVx (fieldX w))
  else if fieldNN w = 0x33#8 then some (.bcd (fieldX w))
  else if fieldNN w = 0x55#8 then some (.storeRegs (fieldX w))
  else if fieldNN w = 0x65#8 then some (.loadRegs (fieldX w))
  else none

/-- The decoder: an instruction, or `none` for an unknown word. -/
def decode (w : Word) : Option Instr :=
  match fieldF w with
  | 0x0 => if w = 0x00E0#16 then some .cls else if w = 0x00EE#16 then some .ret else none
  | 0x1 => some (.jp (fieldNNN w))
  | 0x2 => some (.call (fieldNNN w))
  | 0x3 => some (.seImm (fieldX w) (fieldNN w))
  | 0x4 => some (.sneImm (fieldX w) (fieldNN w))
  | 0x5 => if fieldN w = 0 then some (.seReg (fieldX w) (fieldY w)) else none
  | 0x6 => some (.ldImm (fieldX w) (fieldNN w))
  | 0x7 => some (.addImm (fieldX w) (fieldNN w))
  | 0x8 => decode8 w
  | 0x9 => if fieldN w = 0 then some (.sneReg (fieldX w) (fieldY w)) else none
  | 0xA => some (.ldI (fieldNNN w))
  | 0xB => some (.jpV0 (fieldNNN w))
  | 0xC => some (.rnd (fieldX w) (fieldNN w))
  | 0xD => some (.drw (fieldX w) (fieldY w) (fieldN w))
  | 0xE => decodeE w
  | 0xF => decodeF w
  | _ => none

/-- Why bytes are no instruction. -/
inductive DecodeReject where
  /-- Fewer than the two bytes of an instruction (R80). -/
  | truncated
  /-- The word decodes to `unknown` (R86). -/
  | unknownOpcode (w : Word)
  deriving DecidableEq, Repr

/-- The word of two bytes, the first fetched in bits 15..8 (R62). -/
def wordOfBytes (hi lo : Byte) : Word := hi ++ lo

/-- Decode from bytes: the instruction and the bytes after it, or a rejection by name. -/
def decodeBytes : List Byte → Except DecodeReject (Instr × List Byte)
  | hi :: lo :: rest =>
    match decode (wordOfBytes hi lo) with
    | some i => .ok (i, rest)
    | none => .error (.unknownOpcode (wordOfBytes hi lo))
  | _ => .error .truncated

/-! ## Encode (R82) -/

/-- A 4-bit field as bits (R81). -/
def nibbleBits (x : Fin 16) : BitVec 4 := BitVec.ofFin x

/-- Format `NNN`: `FFFF nnnn nnnn nnnn`. -/
def wordNNN (f : BitVec 4) (nnn : Addr12) : Word := f ++ nnn

/-- Format `XNN` and format `XSS`: `FFFF xxxx kkkk kkkk`. -/
def wordXNN (f : BitVec 4) (x : Reg) (nn : Byte) : Word := f ++ nibbleBits x ++ nn

/-- Formats `XY0`, `XYS` and `XYN`: `FFFF xxxx yyyy nnnn`. -/
def wordXYN (f : BitVec 4) (x y : Reg) (n : BitVec 4) : Word :=
  f ++ nibbleBits x ++ nibbleBits y ++ n

/-- The word of an instruction (R85). -/
def encode : Instr → Word
  | .cls => 0x00E0#16
  | .ret => 0x00EE#16
  | .jp nnn => wordNNN 0x1#4 nnn
  | .call nnn => wordNNN 0x2#4 nnn
  | .seImm x nn => wordXNN 0x3#4 x nn
  | .sneImm x nn => wordXNN 0x4#4 x nn
  | .seReg x y => wordXYN 0x5#4 x y 0x0#4
  | .ldImm x nn => wordXNN 0x6#4 x nn
  | .addImm x nn => wordXNN 0x7#4 x nn
  | .ldReg x y => wordXYN 0x8#4 x y 0x0#4
  | .orReg x y => wordXYN 0x8#4 x y 0x1#4
  | .andReg x y => wordXYN 0x8#4 x y 0x2#4
  | .xorReg x y => wordXYN 0x8#4 x y 0x3#4
  | .addReg x y => wordXYN 0x8#4 x y 0x4#4
  | .subReg x y => wordXYN 0x8#4 x y 0x5#4
  | .shrReg x y => wordXYN 0x8#4 x y 0x6#4
  | .subnReg x y => wordXYN 0x8#4 x y 0x7#4
  | .shlReg x y => wordXYN 0x8#4 x y 0xE#4
  | .sneReg x y => wordXYN 0x9#4 x y 0x0#4
  | .ldI nnn => wordNNN 0xA#4 nnn
  | .jpV0 nnn => wordNNN 0xB#4 nnn
  | .rnd x nn => wordXNN 0xC#4 x nn
  | .drw x y n => wordXYN 0xD#4 x y (nibbleBits n)
  | .skp x => wordXNN 0xE#4 x 0x9E#8
  | .sknp x => wordXNN 0xE#4 x 0xA1#8
  | .ldVxDT x => wordXNN 0xF#4 x 0x07#8
  | .ldVxK x => wordXNN 0xF#4 x 0x0A#8
  | .ldDTVx x => wordXNN 0xF#4 x 0x15#8
  | .ldSTVx x => wordXNN 0xF#4 x 0x18#8
  | .addIVx x => wordXNN 0xF#4 x 0x1E#8
  | .bcd x => wordXNN 0xF#4 x 0x33#8
  | .storeRegs x => wordXNN 0xF#4 x 0x55#8
  | .loadRegs x => wordXNN 0xF#4 x 0x65#8

/-- The bytes of a word as memory holds them: bits 15..8 at the lower address (R62). -/
def bytesOfWord (w : Word) : List Byte := [w.extractLsb' 8 8, w.extractLsb' 0 8]

/-- The table's word as a word of the core: its low `nbits` bits. Every row of the table has 16 bits,
one word, so bit 15 is the top bit of the byte fetched first (R11, R62). -/
def tableWord (nbits w : Nat) : Word := BitVec.ofNat 16 (w % 2 ^ nbits)

/-- What the decoder reads from an instruction whose bits, as opcode_table.json numbers them, are `w`. -/
def decodeTableWord (nbits w : Nat) : Option Instr :=
  match decodeBytes (bytesOfWord (tableWord nbits w)) with
  | .ok (i, _) => some i
  | .error _ => none

end Sys2Proof
end

