-- ==== Sys2Proof/Config.lean ====
section
/-! DEFINITION. What is fixed for one core: the parameters of 00_scope.md R9 (constants) and R10 (a
configuration), and the free inputs of a cycle (R17), which are constants without a body. -/

namespace Sys2Proof

/-- `MEM_SIZE`, the bytes of memory; the highest address is 0xFFF (R9). -/
abbrev memSize : Nat := 0x1000

/-- `LOAD_OFFSET`, where a program is loaded and where execution starts (R9, R68). -/
abbrev loadOffset : Nat := 0x200

/-- `MAX_PROGRAM`, the bytes from the load offset to the top of memory (R9). -/
abbrev maxProgram : Nat := memSize - loadOffset

/-- `NUM_KEYS`, the keys 0x0..0xF (R10, R190). -/
abbrev numKeys : Nat := 16

/-- `FLAG_REG`, the index of the flag register `VF` (R9, R23). -/
abbrev flagReg : Reg := 15

/-- The parameters that R10 leaves open, with R10's defaults. A machine has one `Config` for its whole
life; no step changes it (log 2). -/
structure Config where
  /-- `FB_W`, the columns of the framebuffer (R10, R37). -/
  fbW : Nat := 64
  /-- `FB_H`, the rows of the framebuffer (R10, R37). -/
  fbH : Nat := 32
  /-- `LOGIC_CLEARS_VF`: OR, AND and XOR set `VF` to 0 (R10, R156). -/
  logicClearsVf : Bool := false
  /-- `SHIFT_USES_VY`: the shifts take `V[Y]` (R10, R161). -/
  shiftUsesVy : Bool := false
  /-- `MEM_INCREMENTS_I`: the block transfers move `I` (R10, R198). -/
  memIncrementsI : Bool := false
  /-- `JUMP_OFFSET_USES_VX`: `BNNN` adds `V[X]` (R10, R127). -/
  jumpOffsetUsesVx : Bool := false
  deriving DecidableEq, Repr

/-- R10's defaults. -/
def Config.default : Config := {}

/-- The two inputs of one `cycle(keys, rnd)` transaction: bit `k` of `keys` says that key `k` is
pressed, `rnd` is the random byte (R17). -/
structure CycleInput where
  keys : BitVec 16
  rnd : Byte
  deriving DecidableEq, Repr

/-- The key vector of a cycle whose input nothing has fixed: a free value, one for each number of the
cycle (R10 "a free 16-bit input of each cycle"; log 1). It has no body, so nothing can be proved of it. -/
opaque Config.freeKeys : Nat → BitVec 16

/-- The random byte of a cycle whose input nothing has fixed: a free value, one for each number of the
cycle (R10 "a draw: a free 8-bit input of each cycle", R165; log 1). -/
opaque Config.freeRnd : Nat → Byte

end Sys2Proof
end

