-- ==== Sys2Proof/Machine/State.lean ====
section
/-! DEFINITION. The state of the core (10_state.md), as plain data, the reasons a step can stop, and the
state after reset (R41). -/

namespace Sys2Proof.Machine

/-- Memory `M` (R20): the bytes that are not 0x00, as (address, byte) pairs of rising address. An
address that is not listed reads as 0x00, memory's reset contents (R20, R41; log 10). -/
abbrev Memory := List Host.Cell

/-- The framebuffer `FB` (R37): the pixels that are 1, as (row, column) pairs `(y, x)` in rising order. A
pixel that is not listed is 0 (log 9). -/
abbrev Framebuffer := List (Nat × Nat)

/-- The kinds of fault (60_exceptions.md R231). Each of them halts the engine: raising one is a next state
of the machine (R233), not a stop of the model (log 4). -/
inductive FaultKind where
  /-- The word decodes to `unknown`; raised by decode. -/
  | unknownOpcode
  /-- `SP = 16` at a call; raised by `2NNN`. -/
  | stackOverflow
  /-- `SP = 0` at a return; raised by `00EE`. -/
  | stackUnderflow
  /-- `pc + 1 > 0xFFF`; raised by fetch. -/
  | fetchOutOfBounds
  /-- A data address above 0xFFF; raised by `DXYN`, `FX33`, `FX55`, `FX65`. -/
  | dataOutOfBounds
  /-- `V[X] >= 16` at a key test; raised by `EX9E`, `EXA1`. -/
  | keyOutOfRange
  deriving DecidableEq, Repr

/-- The numeric code of a kind (R231). -/
def FaultKind.code : FaultKind → Nat
  | .unknownOpcode => 1
  | .stackOverflow => 2
  | .stackUnderflow => 3
  | .fetchOutOfBounds => 4
  | .dataOutOfBounds => 5
  | .keyOutOfRange => 6

/-- The fault record `{kind, pc, word, detail}` (R232). -/
structure FaultRecord where
  kind : FaultKind
  /-- The address of the faulting instruction, or the fetch address. -/
  pc : Word
  /-- The instruction word; none for `fetchOutOfBounds`. -/
  word : Option Word
  /-- The first address above 0xFFF, or the key value; none for the other kinds (R231;
  log 14). -/
  detail : Option Nat
  deriving DecidableEq, Repr

/-- The state of the core. The fields from `toneStop` on are the model's own (INVENTORY.md, State). -/
structure State where
  /-- The general registers `V[0]`..`V[15]`; `V[15]` is the flag register `VF` (R21, R23). -/
  V : Vector Byte 16
  /-- The index register (R26). -/
  I : Word
  /-- The program counter (R27). -/
  pc : Word
  /-- The count of stack entries in use, 0..16 (R30). -/
  SP : Fin 17
  /-- The call stack, stale entries included (R30). -/
  STACK : Vector Word 16
  /-- The delay timer (R31). -/
  DT : Byte
  /-- The sound timer (R32). -/
  ST : Byte
  /-- Memory (R20). -/
  M : Memory
  /-- The engine is `Halted` (R33). -/
  halted : Bool
  /-- The last fault's record (R34). -/
  fault : Option FaultRecord
  /-- A cycle has been made since the last reset (R35). -/
  started : Bool
  /-- The framebuffer (R37). -/
  FB : Framebuffer
  /-- The dirty flag (R38). -/
  dirty : Bool
  /-- The `tone_stop` output of the last cycle (R45, R51; log 3). -/
  toneStop : Bool
  /-- The core's configuration (R10; log 2). -/
  cfg : Config
  /-- The inputs of the next cycles that are already known, oldest first (R17; log 1). -/
  inputs : List CycleInput
  /-- The number of the cycle, the argument of the free inputs (log 1). -/
  draws : Nat
  deriving DecidableEq, Repr

/-- The reasons a step stops with a fault of the MODEL. There is none: every faulting condition of the
spec has an effect, the fault step of R233, and the machine goes on to a halted next state (log 4). -/
inductive Fault where
  deriving DecidableEq, Repr

/-- The reasons a step is refused. -/
inductive Refusal where
  /-- Raised by `exec` for an instruction that has no meaning yet. Safe: the model says nothing of
  what follows. No arm of `exec` raises it: every instruction has its meaning. -/
  | notModelled (mnemonic : String)
  deriving DecidableEq, Repr

/-- The state after `reset()` (R41, R260), with the default configuration (R10) and the model's own fields
at the values of log 1, log 2 and log 3. -/
def State.reset : State where
  V := Vector.replicate 16 0x00#8
  I := 0x0000#16
  pc := 0x0200#16
  SP := 0
  STACK := Vector.replicate 16 0x0000#16
  DT := 0x00#8
  ST := 0x00#8
  M := []
  halted := false
  fault := none
  started := false
  FB := []
  dirty := false
  toneStop := false
  cfg := Config.default
  inputs := []
  draws := 0

end Sys2Proof.Machine
end

