-- ==== Sys2Proof/Machine/Ops.lean ====
section
/-! DEFINITION. The named operations over memory, registers, framebuffer and control state that the
meanings share: memory and its bounds (20_memory.md), raising a fault (60_exceptions.md R233), the parts of
the cycle (10_state.md R51). -/

namespace Sys2Proof.Machine

/-! ## Memory -/

/-- What an address that is not listed reads as: the reset value of memory (R20, R41). -/
def blankByte : Byte := 0x00#8

/-- The canonical form: addresses strictly rising and inside memory, and no entry equal to `blankByte`. -/
abbrev Memory.wf (m : Memory) : Prop :=
  m.Pairwise (fun c d => c.1 < d.1) ∧ ∀ c ∈ m, c.1 < memSize ∧ c.2 ≠ blankByte

/-- `MemRead(a, 1)` (R14). Every rule that reads checks the address first (R66); the value at an address
above 0xFFF is never used. -/
def Memory.read : Memory → Nat → Byte
  | [], _ => blankByte
  | (k, b) :: rest, a => if k = a then b else Memory.read rest a

/-- Put a byte into a memory that does not list its address, before the first higher address. -/
def Memory.insert : Memory → Nat → Byte → Memory
  | [], a, b => [(a, b)]
  | (k, c) :: rest, a, b => if a < k then (a, b) :: (k, c) :: rest else (k, c) :: Memory.insert rest a b

/-- Take the entry of an address out. -/
def Memory.remove (m : Memory) (a : Nat) : Memory := m.filter (fun c => decide (c.1 ≠ a))

/-- `MemWrite(a, 1, b)` (R14). Every rule that writes checks the address first (R66); a write above 0xFFF
never happens and would leave memory as it is. -/
def Memory.write (m : Memory) (a : Nat) (b : Byte) : Memory :=
  if a < memSize then
    if b = blankByte then m.remove a else (m.remove a).insert a b
  else m

/-- Single-byte writes at rising addresses from `a` (R67). -/
def Memory.writeBytes : Memory → Nat → List Byte → Memory
  | m, _, [] => m
  | m, a, b :: bs => Memory.writeBytes (m.write a b) (a + 1) bs

/-- Single-byte reads at `n` rising addresses from `a` (R67). -/
def Memory.readBytes (m : Memory) (a n : Nat) : List Byte := (List.range n).map (fun k => m.read (a + k))

/-- The data bound of R66 on the `n` addresses from `base`: the first of them above 0xFFF, if there is
one. `base` is not masked and `base + k` does not wrap. -/
def firstOutOfRange (base n : Nat) : Option Nat :=
  if n = 0 ∨ base + n ≤ memSize then none else some (max base memSize)

/-! ## Framebuffer -/

/-- The order of pixels: by row, then by column. -/
abbrev pixelBefore (p q : Nat × Nat) : Prop := p.1 < q.1 ∨ (p.1 = q.1 ∧ p.2 < q.2)

/-- The canonical form of a framebuffer of `w` columns and `h` rows. -/
abbrev Framebuffer.wf (w h : Nat) (fb : Framebuffer) : Prop :=
  fb.Pairwise pixelBefore ∧ ∀ p ∈ fb, p.1 < h ∧ p.2 < w

/-- `FB[y][x]` (R37). -/
def Framebuffer.pixel (fb : Framebuffer) (y x : Nat) : Bool := decide ((y, x) ∈ fb)

/-- Put a pixel that is not listed into its place. -/
def Framebuffer.insert : Framebuffer → Nat × Nat → Framebuffer
  | [], p => [p]
  | q :: rest, p => if pixelBefore p q then p :: q :: rest else q :: Framebuffer.insert rest p

/-- `FB[y][x] <- FB[y][x] XOR 1` (R102). -/
def Framebuffer.flip (fb : Framebuffer) (p : Nat × Nat) : Framebuffer :=
  if p ∈ fb then fb.filter (fun q => decide (q ≠ p)) else fb.insert p

/-- The grid of a framebuffer, row by row (R37). -/
def Framebuffer.grid (w h : Nat) (fb : Framebuffer) : List (List Bool) :=
  (List.range h).map (fun y => (List.range w).map (fun x => fb.pixel y x))

/-- The framebuffer pixels under the set bits of one sprite row, in the order of its columns: bit `7 - c`
is column `c`, placed at column `(x0 + c) mod FB_W` (R101). -/
def spriteRowPixels (w x0 y : Nat) (row : Byte) : List (Nat × Nat) :=
  ((List.range 8).filter (fun c => row.getLsbD (7 - c))).map (fun c => (y, (x0 + c) % w))

/-- The framebuffer pixels under the set bits of a sprite, in the order of R102's loops; the row with
offset `r` is placed at row `(y0 + r) mod FB_H` (R101). -/
def spritePixels (w h x0 y0 : Nat) : List Byte → List (Nat × Nat)
  | [] => []
  | row :: rows => spriteRowPixels w x0 (y0 % h) row ++ spritePixels w h x0 (y0 + 1) rows

/-- One turn of R102's loop on a set sprite bit: note a collision, then flip the pixel. -/
def drawPixel (acc : Framebuffer × Bool) (p : Nat × Nat) : Framebuffer × Bool :=
  (acc.1.flip p, acc.2 || acc.1.pixel p.1 p.2)

/-- R102's loop: the framebuffer after all the pixels, and whether any pixel was erased. -/
def drawPixels (fb : Framebuffer) (ps : List (Nat × Nat)) : Framebuffer × Bool :=
  ps.foldl drawPixel (fb, false)

/-! ## Registers -/

namespace State

/-- Write a general register; none is hard-wired (R21). -/
def writeV (s : State) (x : Reg) (b : Byte) : State := { s with V := s.V.set x b }

/-- Write the index register, at its 16 bits (R26). -/
def writeI (s : State) (a : Word) : State := { s with I := a }

/-- Write the delay timer (R31). -/
def writeDT (s : State) (b : Byte) : State := { s with DT := b }

/-- Write the sound timer (R32). -/
def writeST (s : State) (b : Byte) : State := { s with ST := b }

/-- Replace memory. -/
def writeM (s : State) (m : Memory) : State := { s with M := m }

/-- Replace the framebuffer and set `dirty` (R38). -/
def writeFB (s : State) (fb : Framebuffer) : State := { s with FB := fb, dirty := true }

/-- `pc <- target` (R16). -/
def goto (s : State) (target : Word) : State := { s with pc := target }

/-- The default advance `pc <- pc + 2` (R56). -/
def advance (s : State) : State := s.goto (s.pc + 2#16)

/-- `pc <- pc + 4` when the condition holds, else `pc <- pc + 2` (R19, R28). -/
def skipIf (s : State) (c : Bool) : State := s.goto (if c then s.pc + 4#16 else s.pc + 2#16)

/-! ## Call stack (R30) -/

/-- Push, for `SP < 16`: `STACK[SP] <- a; SP <- SP + 1`. -/
def push (s : State) (a : Word) (h : s.SP.val < 16) : State :=
  { s with STACK := s.STACK.set s.SP.val a, SP := ⟨s.SP.val + 1, by omega⟩ }

/-- Pop into `pc`, for `SP > 0`: `SP <- SP - 1; pc <- STACK[SP]`. The entry is not cleared. -/
def popPc (s : State) (h : 0 < s.SP.val) : State :=
  { s with SP := ⟨s.SP.val - 1, by omega⟩, pc := s.STACK[s.SP.val - 1]'(by omega) }

/-! ## Faults (60_exceptions.md) -/

/-- The fault step of R233: halt, record, no tone; nothing else changes. -/
def faultStep (s : State) (kind : FaultKind) (p : Word) (word : Option Word) (detail : Option Nat) : State :=
  { s with halted := true, fault := some ⟨kind, p, word, detail⟩, toneStop := false }

end State

/-- `raise F(info)` by the executing instruction `i` (R15): nothing it wrote takes effect, and the engine
halts with the instruction's address and word on record (R232, R233; log 5). -/
def raise (kind : FaultKind) (i : Instr) (detail : Option Nat) (s : State) :
    Host.Outcome State Fault Refusal :=
  .next (s.faultStep kind s.pc (some (encode i)) detail)

/-- A data instruction `i` on the `n` bytes from `base`: it raises `DataOutOfBounds` when one of the
addresses is above 0xFFF, and its effect `t` is the next state otherwise (R66). -/
def withDataBound (i : Instr) (base n : Nat) (s t : State) : Host.Outcome State Fault Refusal :=
  match firstOutOfRange base n with
  | some a => raise .dataOutOfBounds i (some a) s
  | none => .next t

/-! ## The parts of the cycle (R51) -/

/-- What follows a step that answers a next state; a stop stays as it is. -/
def onNext (f : State → State) : Host.Outcome State Fault Refusal → Host.Outcome State Fault Refusal
  | .next t => .next (f t)
  | .fault r => .fault r
  | .refused r => .refused r

namespace State

/-- The inputs of the coming cycle: the oldest known ones, or free ones (R17, R54; log 1). -/
def input (s : State) : CycleInput :=
  match s.inputs with
  | c :: _ => c
  | [] => ⟨Config.freeKeys s.draws, Config.freeRnd s.draws⟩

/-- Give the coming cycle its inputs. -/
def supply (s : State) (c : CycleInput) : State := { s with inputs := c :: s.inputs }

/-- A cycle begins: `started <- 1` (R35, R51). -/
def beginCycle (s : State) : State := { s with started := true }

/-- A cycle is over: its inputs are used up (log 1). -/
def endCycle (s : State) : State := { s with inputs := s.inputs.tail, draws := s.draws + 1 }

/-- A cycle while `Halted`: no tone, and nothing else (R55). -/
def idle (s : State) : State := { s with toneStop := false }

/-- The fetch (R64, R65): none when `pc + 1 > 0xFFF`, else the word `M[pc] ++ M[pc+1]`. -/
def fetch (s : State) : Option Word :=
  if s.pc.toNat + 1 > 0xFFF then none
  else some (wordOfBytes (s.M.read s.pc.toNat) (s.M.read (s.pc.toNat + 1)))

/-- One tick of one timer: down by one while positive, never below 0 (R240). -/
def tickTimer (b : Byte) : Byte := if b = 0#8 then 0#8 else b - 1#8

/-- The timer tick (R240, R241): `tone_stop` is 1 exactly when it takes `ST` from 1 to 0. -/
def tick (s : State) : State :=
  { s with toneStop := decide (s.ST = 1#8), DT := tickTimer s.DT, ST := tickTimer s.ST }

/-- The end of a cycle whose instruction ran: the timers tick unless it raised a fault (R51, R233, R240). -/
def tickUnlessHalted (s : State) : State := if s.halted then s else s.tick

/-- Store a word at an address as memory holds it, the top byte first (R62). -/
def storeWord (s : State) (a : Nat) (w : Word) : State := s.writeM (s.M.writeBytes a (bytesOfWord w))

/-- Make the next cycle fetch: a running engine with `pc` at a place for a word. It changes nothing in a
running state whose `pc` is at most 0xFFE (log 8). -/
def readyToFetch (s : State) : State :=
  { s with
    halted := false
    fault := none
    pc := if s.pc.toNat + 1 > 0xFFF then BitVec.ofNat 16 loadOffset else s.pc }

end State

end Sys2Proof.Machine
end

