-- ==== Sys2Proof/Machine/Flags.lean ====
section
/-! DEFINITION. The flag computations of 42_alu.md R150 and the order of the writes (10_state.md R24). Each
result is computed exactly, on integers, and then narrowed to the width of its register (R12). -/

namespace Sys2Proof.Machine

/-- A flag as a register value, 0 or 1 (R23). -/
def flagByte (c : Bool) : Byte := if c then 1#8 else 0#8

/-- `(a + b) mod 256` (R150). -/
def sum8 (a b : Byte) : Byte := BitVec.ofNat 8 (a.toNat + b.toNat)

/-- The carry of `a + b` (R159). -/
def carry (a b : Byte) : Bool := decide (a.toNat + b.toNat > 255)

/-- `(a - b) mod 256` (R150). -/
def diff8 (a b : Byte) : Byte := BitVec.ofInt 8 ((a.toNat : Int) - (b.toNat : Int))

/-- No borrow in `a - b` (R160). -/
def noBorrow (a b : Byte) : Bool := decide (a.toNat ≥ b.toNat)

/-- `s >> 1` (R161). -/
def shiftRight1 (b : Byte) : Byte := BitVec.ofNat 8 (b.toNat / 2)

/-- `(s << 1) mod 256` (R163). -/
def shiftLeft1 (b : Byte) : Byte := BitVec.ofNat 8 (b.toNat * 2)

/-- The bit a right shift shifts out, `s[0]` (R161). -/
def outRight (b : Byte) : Bool := b.getLsbD 0

/-- The bit a left shift shifts out, `s[7]` (R163). -/
def outLeft (b : Byte) : Bool := b.getLsbD 7

namespace State

/-- The result to `V[X]` first, the flag to `VF` last, so that the flag survives when `X = 0xF` (R24). -/
def writeResultFlag (s : State) (x : Reg) (result : Byte) (flag : Bool) : State :=
  (s.writeV x result).writeV flagReg (flagByte flag)

/-- The result of a logic operation to `V[X]`, and then 0 to `VF` when `LOGIC_CLEARS_VF` (R156). -/
def writeLogic (s : State) (x : Reg) (result : Byte) : State :=
  if s.cfg.logicClearsVf then (s.writeV x result).writeV flagReg 0#8 else s.writeV x result

end State

end Sys2Proof.Machine
end

