-- ==== Sys2Proof/Machine/Operands.lean ====
section
/-! DEFINITION. The operand forms: a register by its index, the operands that a parameter selects, the keys
and the bytes at `I` (30_encoding.md R83; 10_state.md R22). -/

namespace Sys2Proof.Machine

namespace State

/-- The source of a shift: `V[X]`, or `V[Y]` when `SHIFT_USES_VY` (R161, R163). -/
def shiftSource (s : State) (x y : Reg) : Byte := if s.cfg.shiftUsesVy then s.V[y] else s.V[x]

/-- The offset of `BNNN`: `V[0]`, or `V[X]` when `JUMP_OFFSET_USES_VX` (R127). -/
def jumpOffset (s : State) (nnn : Addr12) : Byte :=
  if s.cfg.jumpOffsetUsesVx then s.V[addrX nnn] else s.V[(0 : Reg)]

/-- Key `k` is pressed during this cycle (R17, R54). -/
def keyPressed (s : State) (k : Nat) : Bool := s.input.keys.getLsbD k

/-- The random byte of this cycle (R17, R165). -/
def randomByte (s : State) : Byte := s.input.rnd

/-- The lowest-numbered pressed key, if any key is pressed (R196). -/
def lowestKey (s : State) : Option Nat := (List.range numKeys).find? s.keyPressed

/-- The bytes of the sprite of `n` rows at `I` (R101). -/
def spriteRows (s : State) (n : RowCount) : List Byte := s.M.readBytes s.I.toNat n.val

/-- The pixels of the sprite of `n` rows at `I`, placed at `(V[X], V[Y])` (R101). -/
def sprite (s : State) (x y : Reg) (n : RowCount) : List (Nat × Nat) :=
  spritePixels s.cfg.fbW s.cfg.fbH s.V[x].toNat s.V[y].toNat (s.spriteRows n)

/-- `I` after a block transfer of `V[0]`..`V[X]`: unchanged, or past the last byte when
`MEM_INCREMENTS_I` (R198, R199). -/
def afterTransfer (s : State) (x : Reg) : Word :=
  if s.cfg.memIncrementsI then BitVec.ofNat 16 (s.I.toNat + x.val + 1) else s.I

end State

/-- A 12-bit address in a 16-bit register, `zext_16(NNN)` (R83). -/
def zext16 (nnn : Addr12) : Word := nnn.setWidth 16

/-- The registers `V[0]`..`V[X]`, in rising order (R198). -/
def regsUpTo (x : Reg) : List Reg :=
  ([0, 1, 2, 3, 4, 5, 6, 7, 8, 9, 10, 11, 12, 13, 14, 15] : List Reg).filter (fun k => decide (k.val ≤ x.val))

/-- The bytes of the registers `V[0]`..`V[X]` (R198). -/
def blockBytes (v : Vector Byte 16) (x : Reg) : List Byte := (regsUpTo x).map (fun k => v[k])

/-- `V[k] <- M[base + k]` for each register of the list (R199). -/
def loadBlock (m : Memory) (base : Nat) : List Reg → Vector Byte 16 → Vector Byte 16
  | [], v => v
  | k :: ks, v => loadBlock m base ks (v.set k (m.read (base + k.val)))

/-- The three decimal digits of a byte, most significant first (R197). -/
def bcdDigits (v : Byte) : List Byte :=
  [BitVec.ofNat 8 (v.toNat / 100), BitVec.ofNat 8 (v.toNat / 10 % 10), BitVec.ofNat 8 (v.toNat % 10)]

end Sys2Proof.Machine
end

