-- ==== Sys2Proof/Machine/Alu.lean ====
section
/-! DEFINITION. The meanings of 42_alu.md. Each ends with the default advance (10_state.md R56), and every
operand is read before any write (R152). -/

namespace Sys2Proof.Machine

/-- `6XNN` LD Vx, NN (R153). -/
def execLdImm (x : Reg) (nn : Byte) (s : State) : Host.Outcome State Fault Refusal :=
  .next (s.writeV x nn).advance

/-- `7XNN` ADD Vx, NN (R154): no flag. -/
def execAddImm (x : Reg) (nn : Byte) (s : State) : Host.Outcome State Fault Refusal :=
  .next (s.writeV x (sum8 s.V[x] nn)).advance

/-- `8XY0` LD Vx, Vy (R155). -/
def execLdReg (x y : Reg) (s : State) : Host.Outcome State Fault Refusal := .next (s.writeV x s.V[y]).advance

/-- `8XY1` OR Vx, Vy (R156). -/
def execOrReg (x y : Reg) (s : State) : Host.Outcome State Fault Refusal :=
  .next (s.writeLogic x (s.V[x] ||| s.V[y])).advance

/-- `8XY2` AND Vx, Vy (R157). -/
def execAndReg (x y : Reg) (s : State) : Host.Outcome State Fault Refusal :=
  .next (s.writeLogic x (s.V[x] &&& s.V[y])).advance

/-- `8XY3` XOR Vx, Vy (R158). -/
def execXorReg (x y : Reg) (s : State) : Host.Outcome State Fault Refusal :=
  .next (s.writeLogic x (s.V[x] ^^^ s.V[y])).advance

/-- `8XY4` ADD Vx, Vy (R159). -/
def execAddReg (x y : Reg) (s : State) : Host.Outcome State Fault Refusal :=
  .next (s.writeResultFlag x (sum8 s.V[x] s.V[y]) (carry s.V[x] s.V[y])).advance

/-- `8XY5` SUB Vx, Vy (R160). -/
def execSubReg (x y : Reg) (s : State) : Host.Outcome State Fault Refusal :=
  .next (s.writeResultFlag x (diff8 s.V[x] s.V[y]) (noBorrow s.V[x] s.V[y])).advance

/-- `8XY6` SHR Vx, Vy (R161). -/
def execShrReg (x y : Reg) (s : State) : Host.Outcome State Fault Refusal :=
  .next (s.writeResultFlag x (shiftRight1 (s.shiftSource x y)) (outRight (s.shiftSource x y))).advance

/-- `8XY7` SUBN Vx, Vy (R162): the minuend is `V[Y]`. -/
def execSubnReg (x y : Reg) (s : State) : Host.Outcome State Fault Refusal :=
  .next (s.writeResultFlag x (diff8 s.V[y] s.V[x]) (noBorrow s.V[y] s.V[x])).advance

/-- `8XYE` SHL Vx, Vy (R163). -/
def execShlReg (x y : Reg) (s : State) : Host.Outcome State Fault Refusal :=
  .next (s.writeResultFlag x (shiftLeft1 (s.shiftSource x y)) (outLeft (s.shiftSource x y))).advance

/-- `ANNN` LD I, NNN (R164). -/
def execLdI (nnn : Addr12) (s : State) : Host.Outcome State Fault Refusal :=
  .next (s.writeI (zext16 nnn)).advance

/-- `CXNN` RND Vx, NN (R165). -/
def execRnd (x : Reg) (nn : Byte) (s : State) : Host.Outcome State Fault Refusal :=
  .next (s.writeV x (s.randomByte &&& nn)).advance

/-- `FX1E` ADD I, Vx (R166): modulo 2^16, no flag, no fault. -/
def execAddIVx (x : Reg) (s : State) : Host.Outcome State Fault Refusal :=
  .next (s.writeI (BitVec.ofNat 16 (s.I.toNat + s.V[x].toNat))).advance

end Sys2Proof.Machine
end

