-- ==== Sys2Proof/Machine/ControlFlow.lean ====
section
/-! DEFINITION. The meanings of 41_control_flow.md. Each of them sets `pc` itself (R56). -/

namespace Sys2Proof.Machine

/-- `00EE` RET (R120). -/
def execRet (s : State) : Host.Outcome State Fault Refusal :=
  if h : 0 < s.SP.val then .next (s.popPc h) else raise .stackUnderflow .ret none s

/-- `1NNN` JP NNN (R121). -/
def execJp (nnn : Addr12) (s : State) : Host.Outcome State Fault Refusal := .next (s.goto (zext16 nnn))

/-- `2NNN` CALL NNN (R122). -/
def execCall (nnn : Addr12) (s : State) : Host.Outcome State Fault Refusal :=
  if h : s.SP.val < 16 then .next ((s.push (s.pc + 2#16) h).goto (zext16 nnn))
  else raise .stackOverflow (.call nnn) none s

/-- `3XNN` SE Vx, NN (R123). -/
def execSeImm (x : Reg) (nn : Byte) (s : State) : Host.Outcome State Fault Refusal :=
  .next (s.skipIf (decide (s.V[x] = nn)))

/-- `4XNN` SNE Vx, NN (R124). -/
def execSneImm (x : Reg) (nn : Byte) (s : State) : Host.Outcome State Fault Refusal :=
  .next (s.skipIf (decide (s.V[x] ≠ nn)))

/-- `5XY0` SE Vx, Vy (R125). -/
def execSeReg (x y : Reg) (s : State) : Host.Outcome State Fault Refusal :=
  .next (s.skipIf (decide (s.V[x] = s.V[y])))

/-- `9XY0` SNE Vx, Vy (R126). -/
def execSneReg (x y : Reg) (s : State) : Host.Outcome State Fault Refusal :=
  .next (s.skipIf (decide (s.V[x] ≠ s.V[y])))

/-- `BNNN` JP V0, NNN (R127): the sum is not masked to 12 bits. -/
def execJpV0 (nnn : Addr12) (s : State) : Host.Outcome State Fault Refusal :=
  .next (s.goto (BitVec.ofNat 16 (nnn.toNat + (s.jumpOffset nnn).toNat)))

end Sys2Proof.Machine
end

