-- ==== Sys2Proof/Machine/Display.lean ====
section
/-! DEFINITION. The meanings of 40_display.md. Each meaning holds the instruction's rule and the default
advance where the rule writes no `pc` (10_state.md R56); the timer tick is the cycle's (log 6). -/

namespace Sys2Proof.Machine

/-- `00E0` CLS (R100). -/
def execCls (s : State) : Host.Outcome State Fault Refusal := .next (s.writeFB []).advance

/-- The effect of DRW when every sprite byte is in memory: the pixels are flipped in order, then `VF`
takes the collision and `dirty` is set (R102; log 11). -/
def State.draw (s : State) (x y : Reg) (n : RowCount) : State :=
  let r := drawPixels s.FB (s.sprite x y n)
  (s.writeFB r.1).writeV flagReg (flagByte r.2)

/-- `DXYN` DRW Vx, Vy, N (R102). -/
def execDrw (x y : Reg) (n : RowCount) (s : State) : Host.Outcome State Fault Refusal :=
  withDataBound (.drw x y n) s.I.toNat n.val s (s.draw x y n).advance

end Sys2Proof.Machine
end

