-- ==== Sys2Proof/Machine/KeysTimersMemory.lean ====
section
/-! DEFINITION. The meanings of 43_keys_timers_memory.md. -/

namespace Sys2Proof.Machine

/-- A key test of the instruction `i` on the key `V[X]`: `KeyOutOfRange` for a key above 15, else the skip
when the key's state is `want` (R190). -/
def skipOnKey (i : Instr) (x : Reg) (want : Bool) (s : State) : Host.Outcome State Fault Refusal :=
  if s.V[x].toNat ≥ numKeys then raise .keyOutOfRange i (some s.V[x].toNat) s
  else .next (s.skipIf (s.keyPressed s.V[x].toNat == want))

/-- `EX9E` SKP Vx (R191). -/
def execSkp (x : Reg) (s : State) : Host.Outcome State Fault Refusal := skipOnKey (.skp x) x true s

/-- `EXA1` SKNP Vx (R192). -/
def execSknp (x : Reg) (s : State) : Host.Outcome State Fault Refusal := skipOnKey (.sknp x) x false s

/-- `FX07` LD Vx, DT (R193): the timer before this cycle's tick. -/
def execLdVxDT (x : Reg) (s : State) : Host.Outcome State Fault Refusal := .next (s.writeV x s.DT).advance

/-- `FX15` LD DT, Vx (R194). -/
def execLdDTVx (x : Reg) (s : State) : Host.Outcome State Fault Refusal := .next (s.writeDT s.V[x]).advance

/-- `FX18` LD ST, Vx (R195). -/
def execLdSTVx (x : Reg) (s : State) : Host.Outcome State Fault Refusal := .next (s.writeST s.V[x]).advance

/-- The effect of `FX0A` (R196): with no key pressed `pc` stays, else `V[X]` takes the lowest pressed key. -/
def State.waitKey (s : State) (x : Reg) : State :=
  match s.lowestKey with
  | none => s.goto s.pc
  | some k => (s.writeV x (BitVec.ofNat 8 k)).advance

/-- `FX0A` LD Vx, K (R196). -/
def execLdVxK (x : Reg) (s : State) : Host.Outcome State Fault Refusal := .next (s.waitKey x)

/-- `FX33` LD B, Vx (R197). -/
def execBcd (x : Reg) (s : State) : Host.Outcome State Fault Refusal :=
  withDataBound (.bcd x) s.I.toNat 3 s (s.writeM (s.M.writeBytes s.I.toNat (bcdDigits s.V[x]))).advance

/-- `FX55` LD [I], Vx (R198). -/
def execStoreRegs (x : Reg) (s : State) : Host.Outcome State Fault Refusal :=
  withDataBound (.storeRegs x) s.I.toNat (x.val + 1) s
    ((s.writeM (s.M.writeBytes s.I.toNat (blockBytes s.V x))).writeI (s.afterTransfer x)).advance

/-- The registers after a block load of `V[0]`..`V[X]` from `I` (R199). -/
def State.loadV (s : State) (x : Reg) : State :=
  { s with V := loadBlock s.M s.I.toNat (regsUpTo x) s.V }

/-- `FX65` LD Vx, [I] (R199). -/
def execLoadRegs (x : Reg) (s : State) : Host.Outcome State Fault Refusal :=
  withDataBound (.loadRegs x) s.I.toNat (x.val + 1) s ((s.loadV x).writeI (s.afterTransfer x)).advance

end Sys2Proof.Machine
end

