-- ==== Sys2Proof/Machine/Cycle.lean ====
section
/-! DEFINITION. The cycle (10_state.md R51): fetch, decode, execute, timer tick. -/

namespace Sys2Proof.Machine

/-- Execute the instruction, then tick the timers unless it raised a fault (R51, R240). -/
def executeAndTick (i : Instr) (s : State) : Host.Outcome State Fault Refusal :=
  onNext State.tickUnlessHalted (exec i s)

/-- Decode the fetched word and execute it; an unknown word raises `UnknownOpcode` (R84, R231). -/
def decodeAndExecute (w : Word) (s : State) : Host.Outcome State Fault Refusal :=
  match decode w with
  | none => .next (s.faultStep .unknownOpcode s.pc (some w) none)
  | some i => executeAndTick i s

/-- Fetch, decode and execute in a running engine; a fetch beyond memory raises `FetchOutOfBounds` (R64). -/
def runCycle (s : State) : Host.Outcome State Fault Refusal :=
  match s.fetch with
  | none => .next (s.faultStep .fetchOutOfBounds s.pc none none)
  | some w => decodeAndExecute w s

/-- One `cycle(keys, rnd)` transaction, with the inputs that `State.input` names. While `Halted` it is a
no-op (R55). -/
def cycle (s : State) : Host.Outcome State Fault Refusal :=
  onNext State.endCycle (if s.halted then .next s.beginCycle.idle else runCycle s.beginCycle)

end Sys2Proof.Machine
end

