-- ==== Sys2Proof/Machine/Step.lean ====
section
/-! DEFINITION. One step of the machine: one `cycle(keys, rnd)` transaction (10_state.md R51; log 7). -/

namespace Sys2Proof.Machine

/-- One step. -/
def step (s : State) : Host.Outcome State Fault Refusal := cycle s

/-- `s` with the instruction word `w`, as opcode_table.json numbers its `nbits` bits, at the place of the
next fetch, so that the next step runs it (log 8). -/
def State.withFetchWord (s : State) (nbits w : Nat) : State :=
  s.readyToFetch.storeWord s.readyToFetch.pc.toNat (tableWord nbits w)

end Sys2Proof.Machine
end

