-- ==== Sys2Proof/Machine/Transactions.lean ====
section
/-! DEFINITION. The host's transactions on the block (10_state.md R45 to R50; 70_reset_and_hazards.md R260 to
R265). They happen between steps (log 7). -/

namespace Sys2Proof.Machine

/-- One host transaction (R45). -/
inductive Transaction where
  | reset
  | load (bytes : List Byte)
  | cycle (keys : BitVec 16) (rnd : Byte)
  | isHalted
  | lastFault
  | isDirty
  | consumeFrame
  | soundTimerActive
  | readTimers
  deriving DecidableEq, Repr

/-- What a transaction answers (R45). -/
inductive Response where
  /-- `reset()` answers nothing. -/
  | done
  /-- `load(bytes)`: ok. -/
  | ok
  /-- `load(bytes)`: refused. -/
  | refused
  /-- `cycle(keys, rnd)`: its `tone_stop` output. -/
  | toneStop (b : Bool)
  | halted (b : Bool)
  | fault (r : Option FaultRecord)
  | dirty (b : Bool)
  /-- `consumeFrame()`: the snapshot of the framebuffer, row by row. -/
  | frame (grid : List (List Bool))
  | active (b : Bool)
  | timers (dt st : Byte)
  deriving DecidableEq, Repr

namespace State

/-- `reset()`: every state of the spec to its reset value (R260). The configuration and the inputs still to
come are no state of the core and stay (R40; log 2, log 1). -/
def hostReset (s : State) : State :=
  { State.reset with cfg := s.cfg, inputs := s.inputs, draws := s.draws }

/-- `load(bytes)` is admitted: no cycle since the last reset, and the program fits (R263, R264). -/
def loadAdmitted (s : State) (bytes : List Byte) : Bool :=
  !s.started && decide (bytes.length ≤ maxProgram)

/-- `load(bytes)` (R263): an admitted load writes the bytes from 0x200, a refused one changes nothing. -/
def load (s : State) (bytes : List Byte) : State :=
  if s.loadAdmitted bytes then s.writeM (s.M.writeBytes loadOffset bytes) else s

/-- `consumeFrame()` clears `dirty` (R49). -/
def consumeFrame (s : State) : State := { s with dirty := false }

/-- `soundTimerActive()` (R242). -/
def soundTimerActive (s : State) : Bool := decide (s.ST ≠ 0#8)

/-- `cycle(keys, rnd)` with the inputs given: the state after it. A step always answers a next state. -/
def cycleWith (s : State) (c : CycleInput) : State :=
  match step (s.supply c) with
  | .next t => t
  | .fault r => nomatch r
  | .refused _ => s

end State

/-- One transaction: the state after it and the answer (R45). -/
def transact (s : State) : Transaction → State × Response
  | .reset => (s.hostReset, .done)
  | .load bytes => (s.load bytes, if s.loadAdmitted bytes then .ok else .refused)
  | .cycle keys rnd => (s.cycleWith ⟨keys, rnd⟩, .toneStop (s.cycleWith ⟨keys, rnd⟩).toneStop)
  | .isHalted => (s, .halted s.halted)
  | .lastFault => (s, .fault s.fault)
  | .isDirty => (s, .dirty s.dirty)
  | .consumeFrame => (s.consumeFrame, .frame (s.FB.grid s.cfg.fbW s.cfg.fbH))
  | .soundTimerActive => (s, .active s.soundTimerActive)
  | .readTimers => (s, .timers s.DT s.ST)

/-- A sequence of transactions, in order (R70). -/
def transactAll : State → List Transaction → State
  | s, [] => s
  | s, a :: rest => transactAll (transact s a).1 rest

end Sys2Proof.Machine
end

