-- ==== Sys2Proof/WellFormed.lean ====
section
/-! DEFINITION. The checks on what the outside gives the core: an instruction, a configuration and a
program. Ill-formed terms of the last two are shown in Sys2Proof/Tests/Slice0.lean. -/

namespace Sys2Proof

/-- Every term of `Instr` is well-formed: each operand's type is exactly the range of its field (R21
"in range by construction", R83), and every combination of operands is legal (R86 lists the unknown
words, and none of them is an operand combination of an instruction). Log 13. -/
def Instr.wf (_ : Instr) : Bool := true

/-- A framebuffer has at least one column and one row, or the coordinates of R101 have no meaning
(`mod FB_W`, `mod FB_H`; log 9). -/
def Config.wf (c : Config) : Bool := decide (0 < c.fbW) && decide (0 < c.fbH)

/-- A program fits the memory from the load offset up (R264). -/
def Program.wf (bytes : List Byte) : Bool := decide (bytes.length ≤ maxProgram)

end Sys2Proof
end

