-- ==== Sys2Proof/Safety.lean ====
section
/-! DEFINITION. What counts as a sound state of the core, in the terms the claims use: the shape of a fault
record (60_exceptions.md R231), the invariant of a state, and the states a host can bring the core to. -/

namespace Sys2Proof.Machine

/-- A word of an instruction that can raise `DataOutOfBounds` (R231). -/
def isDataWord (w : Word) : Bool :=
  match decode w with
  | some (.drw _ _ _) | some (.bcd _) | some (.storeRegs _) | some (.loadRegs _) => true
  | _ => false

/-- A word of an instruction that can raise `KeyOutOfRange` (R231). -/
def isKeyTestWord (w : Word) : Bool :=
  match decode w with
  | some (.skp _) | some (.sknp _) => true
  | _ => false

/-- A record has the word and the detail that R231 gives its kind. -/
def FaultRecord.wf (r : FaultRecord) : Bool :=
  match r.kind, r.word, r.detail with
  | .unknownOpcode, some w, none => (decode w).isNone && decide (r.pc.toNat ≤ 0xFFE)
  | .stackOverflow, some w, none => decide (fieldF w = 0x2) && decide (r.pc.toNat ≤ 0xFFE)
  | .stackUnderflow, some w, none => decide (w = 0x00EE#16) && decide (r.pc.toNat ≤ 0xFFE)
  | .fetchOutOfBounds, none, none => decide (0xFFF ≤ r.pc.toNat)
  | .dataOutOfBounds, some w, some a =>
    isDataWord w && decide (0x1000 ≤ a) && decide (a ≤ 0xFFFF) && decide (r.pc.toNat ≤ 0xFFE)
  | .keyOutOfRange, some w, some k =>
    isKeyTestWord w && decide (16 ≤ k) && decide (k ≤ 0xFF) && decide (r.pc.toNat ≤ 0xFFE)
  | _, _, _ => false

/-- The invariant of the core: what every transaction keeps. -/
structure State.Inv (s : State) : Prop where
  /-- Memory is in its canonical form, inside 0x000..0xFFF (R20). -/
  mem_wf : s.M.wf
  /-- The framebuffer is in its canonical form, inside the grid (R37). -/
  fb_wf : s.FB.wf s.cfg.fbW s.cfg.fbH
  /-- The grid has at least one pixel (log 9). -/
  cfg_wf : s.cfg.wf = true
  /-- `pc` never exceeds 0x10FE (R29). -/
  pc_le : s.pc.toNat ≤ 0x10FE
  /-- A return address never exceeds 0x1000 (R29, R122). -/
  stack_le : ∀ k : Fin 16, s.STACK[k].toNat ≤ 0x1000
  /-- There is a fault record exactly while `Halted` (R33, R34). -/
  fault_iff : s.fault.isSome = s.halted
  /-- Only a cycle halts, and every cycle sets `started` (R33, R35). -/
  halted_started : s.halted = true → s.started = true
  /-- A halted engine signals no tone stop (R55, R233). -/
  halted_tone : s.halted = true → s.toneStop = false
  /-- The record has the form of R231 and keeps the address that `pc` still holds (R232, R233). -/
  fault_record : ∀ r, s.fault = some r → r.wf = true ∧ r.pc = s.pc

/-- The state after reset of a core with the configuration `c` (R41, R10). -/
def State.boot (c : Config) : State := { State.reset with cfg := c }

/-- The states that host transactions reach from the reset of a core with a well-formed configuration
(R45, R266). -/
inductive Reachable : State → Prop where
  | boot (c : Config) (h : c.wf = true) : Reachable (State.boot c)
  | transact (s : State) (a : Transaction) (h : Reachable s) : Reachable (transact s a).1

/-! ## The words of the claims -/

/-- The word `M[pc] ++ M[pc+1]` (R62). -/
def State.wordAtPc (s : State) : Word := wordOfBytes (s.M.read s.pc.toNat) (s.M.read (s.pc.toNat + 1))

/-- The engine runs, `pc` has room for a word, and the word there is an instruction `i` (R51, R64, R84). -/
def State.AtInstr (s : State) (i : Instr) : Prop :=
  s.halted = false ∧ s.pc.toNat ≤ 0xFFE ∧ decode s.wordAtPc = some i

/-- `i` completes, `V[x]` takes `result`, every other register keeps its value, `pc` moves on by 2, and
nothing else changes. -/
def WritesReg (i : Instr) (s : State) (x : Reg) (result : Byte) : Prop :=
  ∃ t, exec i s = .next t ∧ (∀ r : Reg, t.V[r] = if r = x then result else s.V[r]) ∧
    t = { s with V := t.V, pc := s.pc + 2#16 }

/-- `i` completes, `V[x]` takes `result` and then `VF` takes `flag`, every other register keeps its value,
`pc` moves on by 2, and nothing else changes (R24). -/
def WritesRegFlag (i : Instr) (s : State) (x : Reg) (result flag : Byte) : Prop :=
  ∃ t, exec i s = .next t ∧
    (∀ r : Reg, t.V[r] = if r = 15 then flag else if r = x then result else s.V[r]) ∧
    t = { s with V := t.V, pc := s.pc + 2#16 }

/-- `i` halts the engine with a record of its own address and word, and nothing else changes (R233). -/
def HaltsWith (i : Instr) (s : State) (kind : FaultKind) (detail : Option Nat) : Prop :=
  exec i s = .next { s with
    halted := true, toneStop := false, fault := some ⟨kind, s.pc, some (encode i), detail⟩ }

/-- The fault that a running cycle reports, by the table of R231 in the order of R235: the record, or none
when the instruction runs. -/
def faultOf (s : State) : Option FaultRecord :=
  if s.pc.toNat + 1 > 0xFFF then some ⟨.fetchOutOfBounds, s.pc, none, none⟩
  else match decode s.wordAtPc with
    | none => some ⟨.unknownOpcode, s.pc, some s.wordAtPc, none⟩
    | some (.call _) =>
      if s.SP.val = 16 then some ⟨.stackOverflow, s.pc, some s.wordAtPc, none⟩ else none
    | some .ret => if s.SP.val = 0 then some ⟨.stackUnderflow, s.pc, some s.wordAtPc, none⟩ else none
    | some (.drw _ _ n) =>
      if 1 ≤ n.val ∧ s.I.toNat + n.val - 1 > 0xFFF then
        some ⟨.dataOutOfBounds, s.pc, some s.wordAtPc, some (max s.I.toNat 0x1000)⟩
      else none
    | some (.bcd _) =>
      if s.I.toNat + 2 > 0xFFF then
        some ⟨.dataOutOfBounds, s.pc, some s.wordAtPc, some (max s.I.toNat 0x1000)⟩
      else none
    | some (.storeRegs x) | some (.loadRegs x) =>
      if s.I.toNat + x.val > 0xFFF then
        some ⟨.dataOutOfBounds, s.pc, some s.wordAtPc, some (max s.I.toNat 0x1000)⟩
      else none
    | some (.skp x) | some (.sknp x) =>
      if s.V[x].toNat ≥ 16 then some ⟨.keyOutOfRange, s.pc, some s.wordAtPc, some s.V[x].toNat⟩ else none
    | some _ => none

/-- A framebuffer as a plain grid: row, then column. -/
abbrev Grid := Nat → Nat → Bool

/-- The body of R102's loops for the sprite bit of row `r` and column `c`, on a plain grid and the collision
so far. -/
def pixelTurn (w h x0 y0 : Nat) (row : Nat → Byte) (acc : Grid × Bool) (rc : Nat × Nat) : Grid × Bool :=
  let x := (x0 + rc.2) % w
  let y := (y0 + rc.1) % h
  if (row rc.1).getLsbD (7 - rc.2) then
    (fun y' x' => if y' = y ∧ x' = x then !acc.1 y x else acc.1 y' x', acc.2 || acc.1 y x)
  else acc

/-- R102's loops over `n` rows and 8 columns: the grid after them, and the collision. -/
def pixelLoop (w h x0 y0 n : Nat) (row : Nat → Byte) (grid : Grid) : Grid × Bool :=
  ((List.range n).flatMap (fun r => (List.range 8).map (fun c => (r, c)))).foldl
    (pixelTurn w h x0 y0 row) (grid, false)

/-- The sprite of `n` rows at `I`, drawn at `(V[X], V[Y])`, has a set bit on the pixel of row `yy` and
column `xx` (R101). -/
def Covers (s : State) (x y : Reg) (n : RowCount) (yy xx : Nat) : Prop :=
  ∃ r c : Nat, r < n.val ∧ c < 8 ∧ (s.M.read (s.I.toNat + r)).getLsbD (7 - c) = true ∧
    yy = (s.V[y].toNat + r) % s.cfg.fbH ∧ xx = (s.V[x].toNat + c) % s.cfg.fbW

/-- The general registers an instruction may write, by the table of R22. -/
def writesRegOf (cfg : Config) (r : Reg) : Instr → Bool
  | .ldImm x _ | .addImm x _ | .ldReg x _ | .rnd x _ | .ldVxDT x | .ldVxK x => decide (r = x)
  | .orReg x _ | .andReg x _ | .xorReg x _ => decide (r = x) || (cfg.logicClearsVf && decide (r = 15))
  | .addReg x _ | .subReg x _ | .subnReg x _ | .shrReg x _ | .shlReg x _ => decide (r = x) || decide (r = 15)
  | .drw _ _ _ => decide (r = 15)
  | .loadRegs x => decide (r ≤ x)
  | .cls | .ret | .jp _ | .call _ | .seImm _ _ | .sneImm _ _ | .seReg _ _ | .sneReg _ _ | .ldI _
  | .jpV0 _ | .skp _ | .sknp _ | .ldDTVx _ | .ldSTVx _ | .addIVx _ | .bcd _ | .storeRegs _ => false

/-- The instructions that read the keys of the cycle (R17, R190, R196). -/
def readsKeys : Instr → Bool
  | .skp _ | .sknp _ | .ldVxK _ => true
  | _ => false

/-- The instruction that reads the random byte of the cycle (R17). -/
def readsRandom : Instr → Bool
  | .rnd _ _ => true
  | _ => false

end Sys2Proof.Machine
end

