-- ==== Sys2Proof/Certificates/Slice0/Obligations.lean ====
section
/-! DEFINITION. The statements for the provers, from the numbered rules of spec/. OBLIGATIONS.json says which
rule each formalises. Nothing is proved here. -/

open Sys2Proof Sys2Proof.Machine

/-! ## Encoding -/

/-- Decoding the bytes of any instruction gives it back, every operand included, and takes exactly its two
bytes (R80 to R85). -/
def Obligations.DecodeOfEncode : Prop :=
  ∀ (i : Instr) (rest : List Byte), decodeBytes (bytesOfWord (encode i) ++ rest) = .ok (i, rest)

/-- A word that decodes to an instruction is the word of that instruction: no two words have one meaning, and
no bit of a word is dropped (R84). -/
def Obligations.EncodeOfDecode : Prop :=
  ∀ (w : Word) (i : Instr), decode w = some i → encode i = w

/-- The unknown words are exactly those of the table of R86. -/
def Obligations.UnknownWordsAreTheTable : Prop :=
  ∀ w : Word, decode w = none ↔
    (w.toNat / 0x1000 = 0x0 ∧ w.toNat ≠ 0x00E0 ∧ w.toNat ≠ 0x00EE) ∨
    (w.toNat / 0x1000 = 0x5 ∧ w.toNat % 0x10 ≠ 0) ∨
    (w.toNat / 0x1000 = 0x8 ∧ w.toNat % 0x10 ∈ [0x8, 0x9, 0xA, 0xB, 0xC, 0xD, 0xF]) ∨
    (w.toNat / 0x1000 = 0x9 ∧ w.toNat % 0x10 ≠ 0) ∨
    (w.toNat / 0x1000 = 0xE ∧ w.toNat % 0x100 ∉ [0x9E, 0xA1]) ∨
    (w.toNat / 0x1000 = 0xF ∧ w.toNat % 0x100 ∉ [0x07, 0x0A, 0x15, 0x18, 0x1E, 0x33, 0x55, 0x65])

/-- Words written out from the formats of R82 decode to the instructions they stand for. -/
def Obligations.SampleWordsDecode : Prop :=
  decode 0b0000000011100000#16 = some .cls ∧
  decode 0b0010001100100001#16 = some (.call 0x321#12) ∧
  decode 0b0110000000000101#16 = some (.ldImm 0 0x05#8) ∧
  decode 0b1000000100100100#16 = some (.addReg 1 2) ∧
  decode 0b1101000111100101#16 = some (.drw 1 14 5) ∧
  decode 0b1110101010100001#16 = some (.sknp 10) ∧
  decode 0b1111101101010101#16 = some (.storeRegs 11) ∧
  decode 0b1111001000101001#16 = none

/-! ## The cycle -/

/-- A step of a running engine whose word at `pc` is the instruction `i` is `exec i` on the state with
`started` set, then the timer tick unless `exec` halted the engine (R51); the cycle's inputs are then used up
(the model's choice, log 1). -/
def Obligations.StepRunsDecodedInstruction : Prop :=
  ∀ (s : State) (i : Instr) (t : State), s.AtInstr i → exec i { s with started := true } = .next t →
    (t.halted = false → step s = .next { t with
      toneStop := decide (t.ST.toNat = 1)
      DT := BitVec.ofNat 8 (t.DT.toNat - 1)
      ST := BitVec.ofNat 8 (t.ST.toNat - 1)
      inputs := t.inputs.tail
      draws := t.draws + 1 }) ∧
    (t.halted = true → step s = .next { t with inputs := t.inputs.tail, draws := t.draws + 1 })

/-- The fetch bound: at `pc >= 0xFFF` the cycle halts with `FetchOutOfBounds`, `pc` on record and no word; at
any `pc` below, odd or even, the fetch reads `M[pc]` and `M[pc+1]`. -/
def Obligations.FetchBound : Prop :=
  ∀ s : State,
    (s.halted = false → s.pc.toNat ≥ 0x0FFF → ∃ t, step s = .next t ∧ t = { s with
      started := true, halted := true, toneStop := false
      fault := some ⟨.fetchOutOfBounds, s.pc, none, none⟩
      inputs := t.inputs, draws := t.draws }) ∧
    (s.pc.toNat < 0x0FFF → ∃ w : Word, s.fetch = some w ∧
      w.toNat / 0x100 = (s.M.read s.pc.toNat).toNat ∧
      w.toNat % 0x100 = (s.M.read (s.pc.toNat + 1)).toNat)

/-- A word that is no instruction is never executed as a no-op: the cycle halts with `UnknownOpcode`, the
address and the word on record. -/
def Obligations.UnknownWordHalts : Prop :=
  ∀ s : State, s.halted = false → s.pc.toNat ≤ 0xFFE →
    (∃ i, decode s.wordAtPc = some i) ∨
    ∃ t, step s = .next t ∧ t = { s with
      started := true, halted := true, toneStop := false
      fault := some ⟨.unknownOpcode, s.pc, some s.wordAtPc, none⟩
      inputs := t.inputs, draws := t.draws }

/-- A cycle while `Halted` is a no-op: `started` is set, `tone_stop` is 0, and nothing else of the core
changes (of the model's own `inputs` and `draws` nothing is said). -/
def Obligations.HaltedCycleIsNoOp : Prop :=
  ∀ s : State, s.halted = true → ∃ t, step s = .next t ∧ t = { s with
    started := true, toneStop := false, inputs := t.inputs, draws := t.draws }

/-- The timers count down by one exactly in a cycle that executed without a fault, from their values after
execute, never below 0; `tone_stop` is 1 exactly when that takes `ST` from 1 to 0. -/
def Obligations.TimersTickOncePerExecutedCycle : Prop :=
  ∀ s t : State, step s = .next t →
    (t.halted = true → t.DT = s.DT ∧ t.ST = s.ST ∧ t.toneStop = false) ∧
    (t.halted = false → ∃ i u, s.AtInstr i ∧ exec i { s with started := true } = .next u ∧
      t.DT.toNat = u.DT.toNat - 1 ∧ t.ST.toNat = u.ST.toNat - 1 ∧ (t.toneStop = true ↔ u.ST.toNat = 1))

/-- Faults are precise: a cycle that halts a running engine changes `halted`, `fault` and `started`, outputs
`tone_stop = 0`, and changes nothing else of the core (of the model's own `inputs` and `draws` nothing is
said). -/
def Obligations.FaultsArePrecise : Prop :=
  ∀ s t : State, s.halted = false → step s = .next t → t.halted = true →
    ∃ r : FaultRecord, t = { s with
      halted := true, fault := some r, started := true, toneStop := false
      inputs := t.inputs, draws := t.draws }

/-- A running cycle halts exactly on the conditions of R231, checked in the order of R235, with the record
that R231 gives; the kinds have the codes 1 to 6. -/
def Obligations.FaultsAreTheTable : Prop :=
  (∀ s : State, s.halted = false → ∃ t, step s = .next t ∧ t.halted = (faultOf s).isSome ∧
    ∀ r, faultOf s = some r → t.fault = some r) ∧
  [FaultKind.unknownOpcode, .stackOverflow, .stackUnderflow, .fetchOutOfBounds, .dataOutOfBounds,
    .keyOutOfRange].map FaultKind.code = [1, 2, 3, 4, 5, 6]

/-- Every step answers a next state: no state stops the model. -/
def Obligations.EveryStepAnswersNext : Prop :=
  ∀ s : State, ∃ t, step s = .next t

/-! ## The invariant -/

/-- Every step keeps the invariant. -/
def Obligations.StepKeepsInv : Prop :=
  ∀ s t : State, s.Inv → step s = .next t → t.Inv

/-- The reset state meets the invariant, with any well-formed configuration. -/
def Obligations.ResetMeetsInv : Prop :=
  State.reset.Inv ∧ ∀ c : Config, c.wf = true → (State.boot c).Inv

/-- Whatever transactions the host makes, in whatever order, from reset, the invariant holds. -/
def Obligations.ReachableStatesMeetInv : Prop :=
  ∀ s : State, Reachable s → s.Inv

/-! ## Rules over all instructions -/

/-- After a load, only `FX33` and `FX55` change memory, and only the bytes they store to. -/
def Obligations.MemoryChangesOnlyByStores : Prop :=
  ∀ (s t : State) (a : Nat), step s = .next t → t.M.read a ≠ s.M.read a →
    (∃ x, s.AtInstr (.bcd x) ∧ s.I.toNat ≤ a ∧ a ≤ s.I.toNat + 2 ∧ a ≤ 0xFFF) ∨
    (∃ x, s.AtInstr (.storeRegs x) ∧ s.I.toNat ≤ a ∧ a ≤ s.I.toNat + x.val ∧ a ≤ 0xFFF)

/-- Only `CALL` pushes and only `RET` pops: no other cycle changes `SP` or a stack entry. -/
def Obligations.StackChangesOnlyByCallAndRet : Prop :=
  ∀ s t : State, step s = .next t → (t.SP ≠ s.SP ∨ t.STACK ≠ s.STACK) →
    (∃ nnn, s.AtInstr (.call nnn) ∧ t.SP.val = s.SP.val + 1) ∨
    (s.AtInstr .ret ∧ t.SP.val + 1 = s.SP.val ∧ t.STACK = s.STACK)

/-- Only `CLS` and `DRW` change the framebuffer or the dirty flag, and they set it. -/
def Obligations.DisplayChangesOnlyByClsAndDrw : Prop :=
  ∀ s t : State, step s = .next t → (t.FB ≠ s.FB ∨ t.dirty ≠ s.dirty) →
    t.dirty = true ∧ (s.AtInstr .cls ∨ ∃ x y n, s.AtInstr (.drw x y n))

/-- A general register changes only in an instruction that the table of R22 lists as writing it. -/
def Obligations.RegistersChangeOnlyByTheTable : Prop :=
  ∀ (i : Instr) (s t : State) (r : Reg), exec i s = .next t → t.V[r] ≠ s.V[r] →
    writesRegOf s.cfg r i = true

/-- `I`, `DT` and `ST` change in execute only by the instructions that R26, R31 and R32 list. -/
def Obligations.SpecialRegistersChangeOnlyByTheirInstructions : Prop :=
  ∀ (i : Instr) (s t : State), exec i s = .next t →
    (t.I ≠ s.I → (∃ nnn, i = .ldI nnn) ∨ (∃ x, i = .addIVx x) ∨
      (s.cfg.memIncrementsI = true ∧ ((∃ x, i = .storeRegs x) ∨ ∃ x, i = .loadRegs x))) ∧
    (t.DT ≠ s.DT → ∃ x, i = .ldDTVx x) ∧
    (t.ST ≠ s.ST → ∃ x, i = .ldSTVx x)

/-- Every instruction but `FX33` and `FX55` leaves every byte of memory as it was. -/
def Obligations.NonStoringInstructionsKeepMemory : Prop :=
  ∀ (i : Instr) (s t : State) (a : Nat), (∀ x, i ≠ .bcd x) → (∀ x, i ≠ .storeRegs x) →
    exec i s = .next t → t.M.read a = s.M.read a

/-- Only `CXNN` reads the random byte, and only `EX9E`, `EXA1` and `FX0A` read the keys: a cycle of any other
instruction goes the same way for all inputs. -/
def Obligations.InputsReachOnlyTheirReaders : Prop :=
  ∀ (s : State) (i : Instr) (c d : CycleInput), s.AtInstr i →
    (readsRandom i = true → c.rnd = d.rnd) → (readsKeys i = true → c.keys = d.keys) →
    step (s.supply c) = step (s.supply d)

/-! ## Reset, load and the host -/

/-- The state after reset, piece by piece. -/
def Obligations.ResetValues : Prop :=
  (∀ a, State.reset.M.read a = 0x00#8) ∧ (∀ r : Reg, State.reset.V[r] = 0x00#8) ∧
  State.reset.I = 0x0000#16 ∧ State.reset.pc = 0x0200#16 ∧ State.reset.SP = 0 ∧
  (∀ k : Fin 16, State.reset.STACK[k] = 0x0000#16) ∧ State.reset.DT = 0x00#8 ∧
  State.reset.ST = 0x00#8 ∧ State.reset.halted = false ∧ State.reset.fault = none ∧
  State.reset.started = false ∧ (∀ y x, State.reset.FB.pixel y x = false) ∧ State.reset.dirty = false

/-- `reset()`, at any time, sets every state of the core to its reset value. What it does to the model's own
fields is the model's choice: `cfg`, `inputs` and `draws` stay (log 1, log 2), and `toneStop` is 0 (log 3). -/
def Obligations.HostResetRestoresEverything : Prop :=
  ∀ s : State, transact s .reset =
    ({ State.reset with cfg := s.cfg, inputs := s.inputs, draws := s.draws }, .done)

/-- Reset erases the program: a cycle straight after a reset, whatever its inputs, halts with
`UnknownOpcode` at 0x200 on the word 0x0000. -/
def Obligations.CycleAfterResetHalts : Prop :=
  ∀ (s : State) (keys : BitVec 16) (rnd : Byte),
    (∀ a, (transact s .reset).1.M.read a = 0x00#8) ∧
    (transactAll s [.reset, .cycle keys rnd]).halted = true ∧
    (transactAll s [.reset, .cycle keys rnd]).fault =
      some ⟨.unknownOpcode, 0x0200#16, some 0x0000#16, none⟩

/-- An admitted load writes its bytes from 0x200 and nothing else; a load of more than 3584 bytes, or after a
cycle, is refused and changes nothing. -/
def Obligations.LoadWritesOrIsRefused : Prop :=
  ∀ (s : State) (bytes : List Byte),
    (s.started = false → bytes.length ≤ 3584 → ∃ t, transact s (.load bytes) = (t, .ok) ∧
      t = { s with M := t.M } ∧
      (∀ (k : Nat) (h : k < bytes.length), t.M.read (0x200 + k) = bytes[k]) ∧
      (∀ a, a < 0x200 ∨ 0x200 + bytes.length ≤ a → t.M.read a = s.M.read a)) ∧
    (s.started = true ∨ bytes.length > 3584 → transact s (.load bytes) = (s, .refused))

/-- Two loads before the first cycle are both admitted: the second overwrites the first bytes of the first,
and bytes beyond the second's length keep the first's values. -/
def Obligations.SecondLoadOverwrites : Prop :=
  ∀ (s : State) (a b : List Byte), s.started = false → a.length ≤ 3584 → b.length ≤ 3584 →
    (transact s (.load a)).2 = .ok ∧ (transact (transact s (.load a)).1 (.load b)).2 = .ok ∧
    (∀ (k : Nat) (h : k < b.length), (transactAll s [.load a, .load b]).M.read (0x200 + k) = b[k]) ∧
    (∀ (k : Nat) (h : k < a.length), b.length ≤ k →
      (transactAll s [.load a, .load b]).M.read (0x200 + k) = a[k])

/-- The read transactions answer from the state and change nothing, but that `consumeFrame()` clears
`dirty`; it answers exactly `FB_H` rows of exactly `FB_W` pixels. -/
def Obligations.ReadTransactions : Prop :=
  ∀ s : State,
    transact s .isHalted = (s, .halted s.halted) ∧ transact s .lastFault = (s, .fault s.fault) ∧
    transact s .isDirty = (s, .dirty s.dirty) ∧ transact s .readTimers = (s, .timers s.DT s.ST) ∧
    transact s .soundTimerActive = (s, .active (s.ST != 0#8)) ∧
    ∃ g : List (List Bool), transact s .consumeFrame = ({ s with dirty := false }, .frame g) ∧
      g.length = s.cfg.fbH ∧ (∀ row ∈ g, row.length = s.cfg.fbW) ∧
      ∀ y x : Nat, y < s.cfg.fbH → x < s.cfg.fbW → (g[y]?.bind (·[x]?)) = some (s.FB.pixel y x)

/-- `Halted` is terminal until reset: no sequence of other transactions changes anything but `dirty` (and the
model's own `inputs` and `draws`), a load is refused, the reads answer, `consumeFrame()` clears `dirty`, and
`reset()` returns the engine to `Running`. -/
def Obligations.HaltedIsTerminalUntilReset : Prop :=
  ∀ s : State, s.Inv → s.halted = true →
    (∀ acts : List Transaction, .reset ∉ acts → ∃ d l n, transactAll s acts =
      { s with dirty := d, inputs := l, draws := n }) ∧
    (∀ bytes, transact s (.load bytes) = (s, .refused)) ∧
    transact s .isHalted = (s, .halted true) ∧ transact s .lastFault = (s, .fault s.fault) ∧
    transact s .isDirty = (s, .dirty s.dirty) ∧ transact s .readTimers = (s, .timers s.DT s.ST) ∧
    transact s .soundTimerActive = (s, .active (s.ST != 0#8)) ∧
    transact s .consumeFrame =
      ({ s with dirty := false }, .frame (s.FB.grid s.cfg.fbW s.cfg.fbH)) ∧
    (transact s .reset).1.halted = false ∧ (transact s .reset).1.fault = none

/-- The inputs that the host gives a cycle are the ones its instruction reads: `CXNN` the random byte, `EX9E`,
`EXA1` and `FX0A` the keys. -/
def Obligations.CycleReadsItsInputs : Prop :=
  ∀ (s t : State) (keys : BitVec 16) (rnd : Byte) (x : Reg) (nn : Byte),
    (transact s (.cycle keys rnd)).1 = t →
    (s.AtInstr (.rnd x nn) → t.V[x] = rnd &&& nn) ∧
    (s.AtInstr (.skp x) → s.V[x].toNat < 16 →
      t.pc = if keys.getLsbD s.V[x].toNat then s.pc + 4#16 else s.pc + 2#16) ∧
    (s.AtInstr (.sknp x) → s.V[x].toNat < 16 →
      t.pc = if keys.getLsbD s.V[x].toNat then s.pc + 2#16 else s.pc + 4#16) ∧
    (s.AtInstr (.ldVxK x) → (∀ k < 16, keys.getLsbD k = false) → t.pc = s.pc ∧ t.V = s.V) ∧
    (s.AtInstr (.ldVxK x) → ∀ k < 16, keys.getLsbD k = true → (∀ j < k, keys.getLsbD j = false) →
      t.pc = s.pc + 2#16 ∧ ∀ r : Reg, t.V[r] = if r = x then BitVec.ofNat 8 k else s.V[r])

/-! ## Display -/

/-- `00E0` clears every pixel, sets `dirty`, moves on, and changes nothing else. -/
def Obligations.ClsClearsDisplay : Prop :=
  (encode .cls).toNat = 0x00E0 ∧
  ∀ s : State, ∃ t, exec .cls s = .next t ∧ (∀ y x, t.FB.pixel y x = false) ∧
    t = { s with FB := t.FB, dirty := true, pc := s.pc + 2#16 }

/-- `DXYN` does to the framebuffer and the collision what the loops of R102 do on a plain grid, puts the
collision into `VF`, sets `dirty`, and changes nothing else; with a sprite byte above 0xFFF it halts with
`DataOutOfBounds` on the first address above 0xFFF. -/
def Obligations.DrwIsThePixelLoop : Prop :=
  ∀ (x y : Reg) (n : RowCount) (s : State),
    (encode (.drw x y n)).toNat = 0xD000 + 0x100 * x.val + 0x10 * y.val + n.val ∧
    (1 ≤ n.val → s.I.toNat + n.val - 1 > 0xFFF →
      HaltsWith (.drw x y n) s .dataOutOfBounds (some (max s.I.toNat 0x1000))) ∧
    (n.val = 0 ∨ s.I.toNat + n.val - 1 ≤ 0xFFF →
      ∃ t, exec (.drw x y n) s = .next t ∧
        (∀ yy xx, t.FB.pixel yy xx = (pixelLoop s.cfg.fbW s.cfg.fbH s.V[x].toNat s.V[y].toNat n.val
          (fun r => s.M.read (s.I.toNat + r)) s.FB.pixel).1 yy xx) ∧
        (∀ r : Reg, t.V[r] = if r = 15 then (if (pixelLoop s.cfg.fbW s.cfg.fbH s.V[x].toNat s.V[y].toNat n.val
          (fun r => s.M.read (s.I.toNat + r)) s.FB.pixel).2 then 1#8 else 0#8) else s.V[r]) ∧
        t = { s with FB := t.FB, dirty := true, V := t.V, pc := s.pc + 2#16 })

/-- On a framebuffer of at least 8 columns and 15 rows, `DXYN` turns exactly the pixels under the sprite's
set bits, wrapped at the edges, and `VF` is 1 exactly when one of them was set. -/
def Obligations.DrwTurnsCoveredPixels : Prop :=
  ∀ (x y : Reg) (n : RowCount) (s : State), 8 ≤ s.cfg.fbW → 15 ≤ s.cfg.fbH →
    (n.val = 0 ∨ s.I.toNat + n.val - 1 ≤ 0xFFF) →
    ∃ t, exec (.drw x y n) s = .next t ∧
      (∀ yy xx, t.FB.pixel yy xx = true ↔
        ((s.FB.pixel yy xx = true ∧ ¬Covers s x y n yy xx) ∨
          (s.FB.pixel yy xx = false ∧ Covers s x y n yy xx))) ∧
      ((∃ yy xx, s.FB.pixel yy xx = true ∧ Covers s x y n yy xx) → t.V[flagReg] = 1#8) ∧
      ((∀ yy xx, s.FB.pixel yy xx = true → ¬Covers s x y n yy xx) → t.V[flagReg] = 0#8)

/-- Drawing the same sprite twice at the same place restores every pixel, and the second draw sets `VF` to 1
exactly when the sprite has a set bit on a pixel that was 0 before the first (log 11). With `X` or `Y` the flag
register the first draw changes the coordinates, so those two draws are not at one place. -/
def Obligations.DrwTwiceRestoresDisplay : Prop :=
  ∀ (x y : Reg) (n : RowCount) (s : State), 8 ≤ s.cfg.fbW → 15 ≤ s.cfg.fbH → x ≠ 15 → y ≠ 15 →
    (n.val = 0 ∨ s.I.toNat + n.val - 1 ≤ 0xFFF) →
    ∃ t u, exec (.drw x y n) s = .next t ∧ exec (.drw x y n) t = .next u ∧
      (∀ yy xx, u.FB.pixel yy xx = s.FB.pixel yy xx) ∧
      (u.V[flagReg] = 1#8 ↔ ∃ yy xx, s.FB.pixel yy xx = false ∧ Covers s x y n yy xx)

/-! ## Control flow -/

/-- `00EE` pops the return address into `pc`, leaves the entry, and changes nothing else; with an empty stack
it halts with `StackUnderflow`. -/
def Obligations.RetPopsOrUnderflows : Prop :=
  (encode .ret).toNat = 0x00EE ∧
  ∀ s : State,
    (s.SP.val = 0 → HaltsWith .ret s .stackUnderflow none) ∧
    (∀ k : Fin 16, s.SP.val = k.val + 1 →
      exec .ret s = .next { s with SP := k.castSucc, pc := s.STACK[k] })

/-- `1NNN` sets `pc` to the address and changes nothing else. -/
def Obligations.JpSetsPc : Prop :=
  ∀ (nnn : Addr12) (s : State), (encode (.jp nnn)).toNat = 0x1000 + nnn.toNat ∧
    ∃ t, exec (.jp nnn) s = .next t ∧ t.pc.toNat = nnn.toNat ∧ t = { s with pc := t.pc }

/-- `2NNN` pushes the address of the next instruction, jumps, and changes nothing else; with a full stack it
halts with `StackOverflow`. -/
def Obligations.CallPushesOrOverflows : Prop :=
  ∀ (nnn : Addr12) (s : State), (encode (.call nnn)).toNat = 0x2000 + nnn.toNat ∧
    (s.SP.val = 16 → HaltsWith (.call nnn) s .stackOverflow none) ∧
    (∀ k : Fin 16, s.SP.val = k.val → ∃ t, exec (.call nnn) s = .next t ∧
      t.STACK[k] = s.pc + 2#16 ∧ (∀ j : Fin 16, j ≠ k → t.STACK[j] = s.STACK[j]) ∧
      t.SP.val = k.val + 1 ∧ t.pc.toNat = nnn.toNat ∧
      t = { s with STACK := t.STACK, SP := t.SP, pc := t.pc })

/-- A return straight after a call goes to the instruction after the call and leaves `SP` as it was. -/
def Obligations.RetAfterCallReturns : Prop :=
  ∀ (nnn : Addr12) (s : State), s.SP.val < 16 →
    ∃ t u, exec (.call nnn) s = .next t ∧ exec .ret t = .next u ∧ u.pc = s.pc + 2#16 ∧ u.SP = s.SP

/-- Sixteen calls in a row succeed from an empty stack, and the seventeenth halts with `StackOverflow` and
leaves `SP` at 16. -/
def Obligations.SeventeenthCallOverflows : Prop :=
  ∀ (s : State) (a : Fin 17 → Addr12), s.SP = 0 →
    ∃ f : Nat → State, f 0 = s ∧
      (∀ k : Fin 16, exec (.call (a k.castSucc)) (f k.val) = .next (f (k.val + 1)) ∧
        (f (k.val + 1)).SP.val = k.val + 1) ∧
      exec (.call (a 16)) (f 16) = .next (f 17) ∧ (f 17).SP.val = 16 ∧ (f 17).halted = true ∧
      (f 17).fault.map FaultRecord.kind = some .stackOverflow

/-- `3XNN` skips the next instruction when `V[X]` equals the immediate in all 8 bits, `4XNN` when it does
not; nothing but `pc` changes. -/
def Obligations.SkipImmediate : Prop :=
  ∀ (x : Reg) (nn : Byte) (s : State),
    (encode (.seImm x nn)).toNat = 0x3000 + 0x100 * x.val + nn.toNat ∧
    (encode (.sneImm x nn)).toNat = 0x4000 + 0x100 * x.val + nn.toNat ∧
    exec (.seImm x nn) s =
      .next { s with pc := if s.V[x].toNat = nn.toNat then s.pc + 4#16 else s.pc + 2#16 } ∧
    exec (.sneImm x nn) s =
      .next { s with pc := if s.V[x].toNat = nn.toNat then s.pc + 2#16 else s.pc + 4#16 }

/-- `5XY0` skips the next instruction when `V[X]` equals `V[Y]` in all 8 bits, `9XY0` when it does not;
nothing but `pc` changes. -/
def Obligations.SkipRegister : Prop :=
  ∀ (x y : Reg) (s : State),
    (encode (.seReg x y)).toNat = 0x5000 + 0x100 * x.val + 0x10 * y.val ∧
    (encode (.sneReg x y)).toNat = 0x9000 + 0x100 * x.val + 0x10 * y.val ∧
    exec (.seReg x y) s =
      .next { s with pc := if s.V[x].toNat = s.V[y].toNat then s.pc + 4#16 else s.pc + 2#16 } ∧
    exec (.sneReg x y) s =
      .next { s with pc := if s.V[x].toNat = s.V[y].toNat then s.pc + 2#16 else s.pc + 4#16 }

/-- `BNNN` sets `pc` to the unmasked sum of the address and `V[0]`, or of the address and `V[X]` when
`JUMP_OFFSET_USES_VX`; nothing else changes. -/
def Obligations.JumpWithOffset : Prop :=
  ∀ (nnn : Addr12) (x : Reg) (s : State), x.val = nnn.toNat / 0x100 →
    (encode (.jpV0 nnn)).toNat = 0xB000 + nnn.toNat ∧
    ∃ t, exec (.jpV0 nnn) s = .next t ∧ t = { s with pc := t.pc } ∧
      t.pc.toNat = nnn.toNat + (if s.cfg.jumpOffsetUsesVx then s.V[x].toNat else s.V[(0 : Reg)].toNat)

/-! ## Registers and the ALU -/

/-- `6XNN` puts the immediate into `V[X]` and `8XY0` copies `V[Y]` into it, with no flag. -/
def Obligations.LoadRegister : Prop :=
  ∀ (x y : Reg) (nn : Byte) (s : State),
    (encode (.ldImm x nn)).toNat = 0x6000 + 0x100 * x.val + nn.toNat ∧
    (encode (.ldReg x y)).toNat = 0x8000 + 0x100 * x.val + 0x10 * y.val ∧
    WritesReg (.ldImm x nn) s x nn ∧ WritesReg (.ldReg x y) s x s.V[y]

/-- `7XNN` adds the immediate modulo 256, with no flag. -/
def Obligations.AddImmediate : Prop :=
  ∀ (x : Reg) (nn : Byte) (s : State),
    (encode (.addImm x nn)).toNat = 0x7000 + 0x100 * x.val + nn.toNat ∧
    WritesReg (.addImm x nn) s x (BitVec.ofNat 8 ((s.V[x].toNat + nn.toNat) % 256))

/-- `8XY1`, `8XY2` and `8XY3` put the bitwise OR, AND and XOR into `V[X]`; `VF` is untouched, or 0 after the
result when `LOGIC_CLEARS_VF`. -/
def Obligations.LogicOperations : Prop :=
  ∀ (x y : Reg) (s : State),
    (encode (.orReg x y)).toNat = 0x8001 + 0x100 * x.val + 0x10 * y.val ∧
    (encode (.andReg x y)).toNat = 0x8002 + 0x100 * x.val + 0x10 * y.val ∧
    (encode (.xorReg x y)).toNat = 0x8003 + 0x100 * x.val + 0x10 * y.val ∧
    (s.cfg.logicClearsVf = false → WritesReg (.orReg x y) s x (s.V[x] ||| s.V[y]) ∧
      WritesReg (.andReg x y) s x (s.V[x] &&& s.V[y]) ∧ WritesReg (.xorReg x y) s x (s.V[x] ^^^ s.V[y])) ∧
    (s.cfg.logicClearsVf = true → WritesRegFlag (.orReg x y) s x (s.V[x] ||| s.V[y]) 0#8 ∧
      WritesRegFlag (.andReg x y) s x (s.V[x] &&& s.V[y]) 0#8 ∧
      WritesRegFlag (.xorReg x y) s x (s.V[x] ^^^ s.V[y]) 0#8)

/-- `8XY4` puts the sum modulo 256 into `V[X]` and the carry, last, into `VF`. -/
def Obligations.AddWithCarry : Prop :=
  ∀ (x y : Reg) (s : State),
    (encode (.addReg x y)).toNat = 0x8004 + 0x100 * x.val + 0x10 * y.val ∧
    WritesRegFlag (.addReg x y) s x (BitVec.ofNat 8 ((s.V[x].toNat + s.V[y].toNat) % 256))
      (if s.V[x].toNat + s.V[y].toNat > 255 then 1#8 else 0#8)

/-- `8XY5` puts `V[X] - V[Y]` modulo 256 into `V[X]`, `8XY7` puts `V[Y] - V[X]`; `VF` takes, last, 1 exactly
when there is no borrow. -/
def Obligations.SubtractWithBorrow : Prop :=
  ∀ (x y : Reg) (s : State),
    (encode (.subReg x y)).toNat = 0x8005 + 0x100 * x.val + 0x10 * y.val ∧
    (encode (.subnReg x y)).toNat = 0x8007 + 0x100 * x.val + 0x10 * y.val ∧
    WritesRegFlag (.subReg x y) s x (BitVec.ofNat 8 (s.V[x].toNat + 256 - s.V[y].toNat))
      (if s.V[x].toNat ≥ s.V[y].toNat then 1#8 else 0#8) ∧
    WritesRegFlag (.subnReg x y) s x (BitVec.ofNat 8 (s.V[y].toNat + 256 - s.V[x].toNat))
      (if s.V[y].toNat ≥ s.V[x].toNat then 1#8 else 0#8)

/-- `8XY6` and `8XYE` shift `V[X]`, or `V[Y]` when `SHIFT_USES_VY`, by one into `V[X]`, and `VF` takes, last,
the bit shifted out. -/
def Obligations.Shifts : Prop :=
  ∀ (x y : Reg) (s : State) (b : Byte), b = (if s.cfg.shiftUsesVy then s.V[y] else s.V[x]) →
    (encode (.shrReg x y)).toNat = 0x8006 + 0x100 * x.val + 0x10 * y.val ∧
    (encode (.shlReg x y)).toNat = 0x800E + 0x100 * x.val + 0x10 * y.val ∧
    WritesRegFlag (.shrReg x y) s x (b >>> 1) (BitVec.ofNat 8 (b.toNat % 2)) ∧
    WritesRegFlag (.shlReg x y) s x (b <<< 1) (BitVec.ofNat 8 (b.toNat / 128))

/-- `ANNN` puts the address into `I`, and `FX1E` adds `V[X]` to `I` modulo 2^16, with no flag and no fault;
nothing else but `pc` changes. -/
def Obligations.IndexRegister : Prop :=
  ∀ (nnn : Addr12) (x : Reg) (s : State),
    (encode (.ldI nnn)).toNat = 0xA000 + nnn.toNat ∧
    (encode (.addIVx x)).toNat = 0xF01E + 0x100 * x.val ∧
    (∃ t, exec (.ldI nnn) s = .next t ∧ t.I.toNat = nnn.toNat ∧
      t = { s with I := t.I, pc := s.pc + 2#16 }) ∧
    (∃ t, exec (.addIVx x) s = .next t ∧ t.I.toNat = (s.I.toNat + s.V[x].toNat) % 65536 ∧
      t = { s with I := t.I, pc := s.pc + 2#16 })

/-- `CXNN` puts the cycle's random byte, masked by the immediate, into `V[X]`, whatever the byte is. -/
def Obligations.RandomByteMasked : Prop :=
  ∀ (x : Reg) (nn : Byte) (s : State),
    (encode (.rnd x nn)).toNat = 0xC000 + 0x100 * x.val + nn.toNat ∧
    WritesReg (.rnd x nn) s x (s.input.rnd &&& nn) ∧
    ∀ c : CycleInput, WritesReg (.rnd x nn) (s.supply c) x (c.rnd &&& nn)

/-! ## Keys, timers and memory transfers -/

/-- `EX9E` skips when the key `V[X]` is pressed in this cycle, `EXA1` when it is not; nothing but `pc`
changes; for `V[X] >= 16` both halt with `KeyOutOfRange`. -/
def Obligations.KeySkips : Prop :=
  ∀ (x : Reg) (s : State),
    (encode (.skp x)).toNat = 0xE09E + 0x100 * x.val ∧
    (encode (.sknp x)).toNat = 0xE0A1 + 0x100 * x.val ∧
    (s.V[x].toNat ≥ 16 → HaltsWith (.skp x) s .keyOutOfRange (some s.V[x].toNat) ∧
      HaltsWith (.sknp x) s .keyOutOfRange (some s.V[x].toNat)) ∧
    (s.V[x].toNat < 16 →
      exec (.skp x) s = .next { s with
        pc := if s.input.keys.getLsbD s.V[x].toNat then s.pc + 4#16 else s.pc + 2#16 } ∧
      exec (.sknp x) s = .next { s with
        pc := if s.input.keys.getLsbD s.V[x].toNat then s.pc + 2#16 else s.pc + 4#16 })

/-- `FX07` copies the delay timer, before this cycle's tick, into `V[X]`; `FX15` and `FX18` copy `V[X]` into
the delay timer and the sound timer; nothing else but `pc` changes in execute. -/
def Obligations.TimerCopies : Prop :=
  ∀ (x : Reg) (s : State),
    (encode (.ldVxDT x)).toNat = 0xF007 + 0x100 * x.val ∧
    (encode (.ldDTVx x)).toNat = 0xF015 + 0x100 * x.val ∧
    (encode (.ldSTVx x)).toNat = 0xF018 + 0x100 * x.val ∧
    WritesReg (.ldVxDT x) s x s.DT ∧
    exec (.ldDTVx x) s = .next { s with DT := s.V[x], pc := s.pc + 2#16 } ∧
    exec (.ldSTVx x) s = .next { s with ST := s.V[x], pc := s.pc + 2#16 }

/-- A timer written by `FX15` or `FX18` is ticked in the same cycle, and `FX18` with `V[X] = 1` raises
`tone_stop` in it. -/
def Obligations.WrittenTimerTicksInSameCycle : Prop :=
  ∀ (x : Reg) (s : State),
    (s.AtInstr (.ldDTVx x) → ∃ t, step s = .next t ∧ t.DT.toNat = s.V[x].toNat - 1 ∧
      t.ST.toNat = s.ST.toNat - 1 ∧ t.pc = s.pc + 2#16 ∧ t.V = s.V) ∧
    (s.AtInstr (.ldSTVx x) → ∃ t, step s = .next t ∧ t.ST.toNat = s.V[x].toNat - 1 ∧
      t.DT.toNat = s.DT.toNat - 1 ∧ (t.toneStop = true ↔ s.V[x].toNat = 1) ∧
      t.pc = s.pc + 2#16 ∧ t.V = s.V)

/-- `FX0A` with no key pressed leaves the state, `pc` included, as it is; with keys pressed it puts the
lowest-numbered one into `V[X]` and moves on. -/
def Obligations.KeyWait : Prop :=
  ∀ (x : Reg) (s : State), (encode (.ldVxK x)).toNat = 0xF00A + 0x100 * x.val ∧
    ((∀ k < 16, s.input.keys.getLsbD k = false) → exec (.ldVxK x) s = .next s) ∧
    (∀ k < 16, s.input.keys.getLsbD k = true → (∀ j < k, s.input.keys.getLsbD j = false) →
      WritesReg (.ldVxK x) s x (BitVec.ofNat 8 k))

/-- A waiting `FX0A` is a full cycle: `pc` and the registers stay, and the timers tick. -/
def Obligations.WaitingCycleTicks : Prop :=
  ∀ (x : Reg) (s : State), s.AtInstr (.ldVxK x) → (∀ k < 16, s.input.keys.getLsbD k = false) →
    ∃ t, step s = .next t ∧ t.pc = s.pc ∧ t.V = s.V ∧ t.halted = false ∧
      t.DT.toNat = s.DT.toNat - 1 ∧ t.ST.toNat = s.ST.toNat - 1

/-- `FX33` writes the decimal digits of `V[X]`, hundreds first, to `I`, `I+1` and `I+2`, and changes nothing
else but `pc`; above 0xFFF it halts with `DataOutOfBounds` and writes nothing. -/
def Obligations.BcdStoresDigits : Prop :=
  ∀ (x : Reg) (s : State), (encode (.bcd x)).toNat = 0xF033 + 0x100 * x.val ∧
    (s.I.toNat + 2 > 0xFFF → HaltsWith (.bcd x) s .dataOutOfBounds (some (max s.I.toNat 0x1000))) ∧
    (s.I.toNat + 2 ≤ 0xFFF → ∃ t, exec (.bcd x) s = .next t ∧
      (t.M.read s.I.toNat).toNat = s.V[x].toNat / 100 ∧
      (t.M.read (s.I.toNat + 1)).toNat = s.V[x].toNat / 10 % 10 ∧
      (t.M.read (s.I.toNat + 2)).toNat = s.V[x].toNat % 10 ∧
      (∀ a, a < s.I.toNat ∨ s.I.toNat + 2 < a → t.M.read a = s.M.read a) ∧
      t = { s with M := t.M, pc := s.pc + 2#16 })

/-- `FX55` writes `V[0]`..`V[X]` to `I`..`I+X`, moves `I` past them when `MEM_INCREMENTS_I`, and changes
nothing else but `pc`; above 0xFFF it halts with `DataOutOfBounds` and writes nothing. -/
def Obligations.BlockStore : Prop :=
  ∀ (x : Reg) (s : State), (encode (.storeRegs x)).toNat = 0xF055 + 0x100 * x.val ∧
    (s.I.toNat + x.val > 0xFFF →
      HaltsWith (.storeRegs x) s .dataOutOfBounds (some (max s.I.toNat 0x1000))) ∧
    (s.I.toNat + x.val ≤ 0xFFF → ∃ t, exec (.storeRegs x) s = .next t ∧
      (∀ k : Reg, k ≤ x → t.M.read (s.I.toNat + k.val) = s.V[k]) ∧
      (∀ a, a < s.I.toNat ∨ s.I.toNat + x.val < a → t.M.read a = s.M.read a) ∧
      t.I.toNat = s.I.toNat + (if s.cfg.memIncrementsI then x.val + 1 else 0) ∧
      t = { s with M := t.M, I := t.I, pc := s.pc + 2#16 })

/-- `FX65` loads `V[0]`..`V[X]` from `I`..`I+X`, moves `I` past them when `MEM_INCREMENTS_I`, and changes
nothing else but `pc`; above 0xFFF it halts with `DataOutOfBounds`. -/
def Obligations.BlockLoad : Prop :=
  ∀ (x : Reg) (s : State), (encode (.loadRegs x)).toNat = 0xF065 + 0x100 * x.val ∧
    (s.I.toNat + x.val > 0xFFF →
      HaltsWith (.loadRegs x) s .dataOutOfBounds (some (max s.I.toNat 0x1000))) ∧
    (s.I.toNat + x.val ≤ 0xFFF → ∃ t, exec (.loadRegs x) s = .next t ∧
      (∀ k : Reg, t.V[k] = if k ≤ x then s.M.read (s.I.toNat + k.val) else s.V[k]) ∧
      t.I.toNat = s.I.toNat + (if s.cfg.memIncrementsI then x.val + 1 else 0) ∧
      t = { s with V := t.V, I := t.I, pc := s.pc + 2#16 })
end

