-- ==== Sys2Proof/Laws/Encoding.lean ====
section
/-! SUPPORT. The words of the formats of 30_encoding.md R82 and the fields of R81 as numbers, so that a claim
about an encoding is arithmetic. -/

namespace Sys2Proof

theorem append_toNat {n m : Nat} (a : BitVec n) (b : BitVec m) :
    (a ++ b).toNat = a.toNat * 2 ^ m + b.toNat := by
  rw [BitVec.toNat_append, ← Nat.shiftLeft_add_eq_or_of_lt b.isLt, Nat.shiftLeft_eq]

@[simp] theorem nibbleBits_toNat (x : Fin 16) : (nibbleBits x).toNat = x.val := rfl

theorem wordNNN_toNat (f : BitVec 4) (a : Addr12) : (wordNNN f a).toNat = f.toNat * 0x1000 + a.toNat := by
  unfold wordNNN
  exact append_toNat f a

theorem wordXNN_toNat (f : BitVec 4) (x : Reg) (nn : Byte) :
    (wordXNN f x nn).toNat = f.toNat * 0x1000 + x.val * 0x100 + nn.toNat := by
  unfold wordXNN
  refine (append_toNat _ nn).trans ?_
  rw [append_toNat, nibbleBits_toNat]
  omega

theorem wordXYN_toNat (f : BitVec 4) (x y : Reg) (n : BitVec 4) :
    (wordXYN f x y n).toNat = f.toNat * 0x1000 + x.val * 0x100 + y.val * 0x10 + n.toNat := by
  unfold wordXYN
  refine (append_toNat _ n).trans ?_
  rw [append_toNat, append_toNat, nibbleBits_toNat, nibbleBits_toNat]
  omega

theorem wordOfBytes_toNat (hi lo : Byte) : (wordOfBytes hi lo).toNat = hi.toNat * 0x100 + lo.toNat := by
  unfold wordOfBytes
  exact append_toNat hi lo

theorem fieldF_eq (w : Word) : fieldF w = w.toNat / 0x1000 := by
  simp only [fieldF, BitVec.extractLsb'_toNat, Nat.shiftRight_eq_div_pow]
  omega

theorem fieldX_val (w : Word) : (fieldX w).val = w.toNat / 0x100 % 0x10 := by
  change (w.extractLsb' 8 4).toNat = _
  simp [BitVec.extractLsb'_toNat, Nat.shiftRight_eq_div_pow]

theorem fieldY_val (w : Word) : (fieldY w).val = w.toNat / 0x10 % 0x10 := by
  change (w.extractLsb' 4 4).toNat = _
  simp [BitVec.extractLsb'_toNat, Nat.shiftRight_eq_div_pow]

theorem fieldN_val (w : Word) : (fieldN w).val = w.toNat % 0x10 := by
  change (w.extractLsb' 0 4).toNat = _
  simp [BitVec.extractLsb'_toNat]

theorem fieldNN_toNat (w : Word) : (fieldNN w).toNat = w.toNat % 0x100 := by
  simp [fieldNN, BitVec.extractLsb'_toNat]

theorem fieldNNN_toNat (w : Word) : (fieldNNN w).toNat = w.toNat % 0x1000 := by
  simp [fieldNNN, BitVec.extractLsb'_toNat]

/-- The two bytes of a word, as memory holds them, are the word again (R62). -/
theorem wordOfBytes_bytesOfWord (w : Word) :
    wordOfBytes (w.extractLsb' 8 8) (w.extractLsb' 0 8) = w := by
  apply BitVec.eq_of_toNat_eq
  rw [wordOfBytes_toNat]
  simp only [BitVec.extractLsb'_toNat, Nat.shiftRight_eq_div_pow]
  omega

end Sys2Proof
end

