-- ==== Sys2Proof/Laws/Framebuffer.lean ====
section
/-! SUPPORT. The framebuffer: what a flip and a run of flips do to each pixel, and that they keep the
canonical form. -/

namespace Sys2Proof.Machine

namespace Framebuffer

theorem mem_insert (fb : Framebuffer) (p q : Nat × Nat) : q ∈ fb.insert p ↔ q = p ∨ q ∈ fb := by
  induction fb with
  | nil => simp [Framebuffer.insert]
  | cons r fb ih =>
    simp only [Framebuffer.insert]
    split
    · simp
    · simp only [List.mem_cons, ih]
      exact or_left_comm

/-- A flip turns the one pixel and leaves every other alone. -/
theorem mem_flip (fb : Framebuffer) (p q : Nat × Nat) :
    q ∈ fb.flip p ↔ if q = p then p ∉ fb else q ∈ fb := by
  unfold Framebuffer.flip
  by_cases hq : q = p
  · subst hq
    by_cases hp : q ∈ fb
    · simp [hp]
    · simp [hp, mem_insert]
  · by_cases hp : p ∈ fb
    · simp [hp, hq]
    · simp [hp, mem_insert, hq]

/-- A flip turns the one pixel and leaves every other alone, read by row and column. -/
theorem pixel_flip (fb : Framebuffer) (p : Nat × Nat) (y x : Nat) :
    (fb.flip p).pixel y x = (fb.pixel y x ^^ decide ((y, x) = p)) := by
  by_cases h : (y, x) = p <;> simp [Framebuffer.pixel, mem_flip, h]

theorem insert_sorted {fb : Framebuffer} {p : Nat × Nat} (h : fb.Pairwise pixelBefore) (hp : p ∉ fb) :
    (fb.insert p).Pairwise pixelBefore := by
  induction fb with
  | nil => simp [Framebuffer.insert]
  | cons q fb ih =>
    rw [List.pairwise_cons] at h
    simp only [List.mem_cons, not_or] at hp
    simp only [Framebuffer.insert]
    split
    · rename_i hlt
      rw [List.pairwise_cons]
      refine ⟨fun r hr => ?_, List.pairwise_cons.2 h⟩
      rcases List.mem_cons.1 hr with rfl | hr
      · exact hlt
      · have := h.1 r hr
        simp only [pixelBefore] at *
        omega
    · rename_i hlt
      rw [List.pairwise_cons]
      refine ⟨fun r hr => ?_, ih h.2 hp.2⟩
      rcases (mem_insert fb p r).1 hr with rfl | hr
      · have hne : ¬(r.1 = q.1 ∧ r.2 = q.2) := fun hc => hp.1 (Prod.ext hc.1 hc.2)
        simp only [pixelBefore] at *
        omega
      · exact h.1 r hr

/-- A flip of a pixel inside the grid keeps the canonical form. -/
theorem flip_wf {w h : Nat} {fb : Framebuffer} (hfb : fb.wf w h) {p : Nat × Nat} (hy : p.1 < h)
    (hx : p.2 < w) : (fb.flip p).wf w h := by
  unfold Framebuffer.flip
  split
  · exact ⟨hfb.1.filter _, fun q hq => hfb.2 q (List.mem_filter.1 hq).1⟩
  · rename_i hp
    refine ⟨insert_sorted hfb.1 hp, fun q hq => ?_⟩
    rcases (mem_insert fb p q).1 hq with rfl | hq
    · exact ⟨hy, hx⟩
    · exact hfb.2 q hq

/-- Every pixel under a sprite is inside a grid that has pixels. -/
theorem sprite_inside {w h : Nat} (hw : 0 < w) (hh : 0 < h) (x0 y0 : Nat) (rows : List Byte) :
    ∀ p ∈ spritePixels w h x0 y0 rows, p.1 < h ∧ p.2 < w := by
  induction rows generalizing y0 with
  | nil => simp [spritePixels]
  | cons row rows ih =>
    intro p hp
    rcases List.mem_append.1 hp with hp | hp
    · obtain ⟨c, -, rfl⟩ := List.mem_map.1 hp
      exact ⟨Nat.mod_lt _ hh, Nat.mod_lt _ hw⟩
    · exact ih (y0 + 1) p hp

/-- The loop's framebuffer does not depend on the collision noted so far. -/
theorem foldl_drawPixel_fst (ps : List (Nat × Nat)) (fb : Framebuffer) (c : Bool) :
    (ps.foldl drawPixel (fb, c)).1 = ps.foldl Framebuffer.flip fb := by
  induction ps generalizing fb c with
  | nil => rfl
  | cons p ps ih => exact ih _ _

/-- Drawing pixels inside the grid keeps the canonical form. -/
theorem foldl_flip_wf {w h : Nat} (ps : List (Nat × Nat)) {fb : Framebuffer} (hfb : fb.wf w h)
    (hps : ∀ p ∈ ps, p.1 < h ∧ p.2 < w) : (ps.foldl Framebuffer.flip fb).wf w h := by
  induction ps generalizing fb with
  | nil => exact hfb
  | cons p ps ih =>
    have hp := hps p (by simp)
    exact ih (flip_wf hfb hp.1 hp.2) fun q hq => hps q (by simp [hq])

/-- Drawing a sprite keeps the canonical form. -/
theorem drawPixels_wf {w h : Nat} {fb : Framebuffer} (hfb : fb.wf w h) (ps : List (Nat × Nat))
    (hps : ∀ p ∈ ps, p.1 < h ∧ p.2 < w) : (drawPixels fb ps).1.wf w h := by
  rw [drawPixels, foldl_drawPixel_fst]
  exact foldl_flip_wf ps hfb hps

/-- The pixels under a sprite: one for each set bit, wrapped at the edges (R101). -/
theorem mem_spritePixels (w h x0 y0 : Nat) (rows : List Byte) (q : Nat × Nat) :
    q ∈ spritePixels w h x0 y0 rows ↔ ∃ r, ∃ hr : r < rows.length, ∃ c < 8,
      rows[r].getLsbD (7 - c) = true ∧ q.1 = (y0 + r) % h ∧ q.2 = (x0 + c) % w := by
  induction rows generalizing y0 with
  | nil => simp [spritePixels]
  | cons b rows ih =>
    rw [spritePixels, List.mem_append, ih]
    simp only [spriteRowPixels, List.mem_map, List.mem_filter, List.mem_range]
    constructor
    · rintro (⟨c, ⟨hc, hb⟩, rfl⟩ | ⟨r, hr, c, hc, hb, h1, h2⟩)
      · exact ⟨0, by simp, c, hc, hb, rfl, rfl⟩
      · exact ⟨r + 1, by simpa using hr, c, hc, hb, by rw [h1]; congr 1; omega, h2⟩
    · rintro ⟨r, hr, c, hc, hb, h1, h2⟩
      cases r with
      | zero => exact .inl ⟨c, ⟨hc, hb⟩, Prod.ext h1.symm h2.symm⟩
      | succ r => exact .inr ⟨r, by simpa using hr, c, hc, hb, by rw [h1]; congr 1; omega, h2⟩

/-- One turn of the loop on a plain grid. -/
theorem drawPixel_pixel (acc : Framebuffer × Bool) (y x y' x' : Nat) :
    (drawPixel acc (y, x)).1.pixel y' x' =
      if y' = y ∧ x' = x then !acc.1.pixel y x else acc.1.pixel y' x' := by
  rw [drawPixel, pixel_flip]
  by_cases h : y' = y ∧ x' = x
  · obtain ⟨rfl, rfl⟩ := h
    simp
  · have hne : (y', x') ≠ (y, x) := by simpa using h
    simp [h, hne]

/-- Drawing distinct pixels turns each of them once, and notes a collision exactly when one of them was
set. -/
theorem drawPixels_distinct (ps : List (Nat × Nat)) (hn : ps.Nodup) (fb : Framebuffer) :
    (∀ q, q ∈ (drawPixels fb ps).1 ↔ (q ∈ fb ∧ q ∉ ps) ∨ (q ∉ fb ∧ q ∈ ps)) ∧
    ((drawPixels fb ps).2 = true ↔ ∃ q ∈ ps, q ∈ fb) := by
  suffices h : ∀ c, (∀ q, q ∈ (ps.foldl drawPixel (fb, c)).1 ↔ (q ∈ fb ∧ q ∉ ps) ∨ (q ∉ fb ∧ q ∈ ps)) ∧
      ((ps.foldl drawPixel (fb, c)).2 = true ↔ c = true ∨ ∃ q ∈ ps, q ∈ fb) by
    have := h false
    exact ⟨this.1, this.2.trans (by simp)⟩
  induction ps generalizing fb with
  | nil => simp
  | cons p ps ih =>
    intro c
    rw [List.nodup_cons] at hn
    obtain ⟨h1, h2⟩ := ih hn.2 (fb.flip p) (c || fb.pixel p.1 p.2)
    have hother : ∀ q ∈ ps, (q ∈ fb.flip p ↔ q ∈ fb) := fun q hq => by
      rw [mem_flip, if_neg fun e => hn.1 (by rw [← show q = p from e]; exact hq)]
    refine ⟨fun q => (h1 q).trans ?_, h2.trans ?_⟩
    · rw [mem_flip]
      by_cases hq : q = p
      · subst hq
        simp [hn.1]
      · simp [hq]
    · simp only [Bool.or_eq_true, Framebuffer.pixel, decide_eq_true_eq, List.mem_cons, exists_eq_or_imp,
        or_assoc]
      refine or_congr_right (or_congr_right (exists_congr fun q => ?_))
      exact and_congr_right fun hq => hother q hq

end Framebuffer

end Sys2Proof.Machine
end

