-- ==== Sys2Proof/Laws/Memory.lean ====
section
/-! SUPPORT. Memory: a read after a write, and that every memory operation keeps the canonical form. -/

namespace Sys2Proof.Machine

namespace Memory

@[simp] theorem read_nil (a : Nat) : Memory.read [] a = blankByte := rfl

@[simp] theorem read_cons (k : Nat) (b : Byte) (m : Memory) (a : Nat) :
    Memory.read ((k, b) :: m) a = if k = a then b else m.read a := rfl

/-- A memory that does not list an address reads as blank there. -/
theorem read_of_not_listed (m : Memory) (a : Nat) (h : ∀ c ∈ m, c.1 ≠ a) : m.read a = blankByte := by
  induction m with
  | nil => rfl
  | cons c m ih =>
    obtain ⟨k, b⟩ := c
    have hk : k ≠ a := h (k, b) (by simp)
    simp [hk, ih (fun c hc => h c (by simp [hc]))]

theorem mem_remove (m : Memory) (a : Nat) (c : Host.Cell) : c ∈ m.remove a ↔ c ∈ m ∧ c.1 ≠ a := by
  simp [Memory.remove]

theorem read_remove_same (m : Memory) (a : Nat) : (m.remove a).read a = blankByte :=
  read_of_not_listed _ _ fun c hc => ((mem_remove m a c).1 hc).2

theorem read_remove_other (m : Memory) {a a' : Nat} (h : a' ≠ a) : (m.remove a).read a' = m.read a' := by
  induction m with
  | nil => rfl
  | cons c m ih =>
    obtain ⟨k, b⟩ := c
    simp [Memory.remove] at ih
    by_cases hk : k = a
    · subst hk
      simp [Memory.remove, ih, Ne.symm h]
    · simp [Memory.remove, hk, ih]

theorem mem_insert (m : Memory) (a : Nat) (b : Byte) (c : Host.Cell) :
    c ∈ m.insert a b ↔ c = (a, b) ∨ c ∈ m := by
  induction m with
  | nil => simp [Memory.insert]
  | cons d m ih =>
    obtain ⟨k, e⟩ := d
    simp only [Memory.insert]
    split
    · simp
    · simp only [List.mem_cons, ih]
      exact or_left_comm

theorem read_insert_other (m : Memory) {a a' : Nat} (b : Byte) (h : a' ≠ a) :
    (m.insert a b).read a' = m.read a' := by
  induction m with
  | nil => simp [Memory.insert, Ne.symm h]
  | cons d m ih =>
    obtain ⟨k, e⟩ := d
    simp only [Memory.insert]
    split
    · simp [Ne.symm h]
    · simp [ih]

theorem read_insert_same (m : Memory) (a : Nat) (b : Byte) (h : ∀ c ∈ m, c.1 ≠ a) :
    (m.insert a b).read a = b := by
  induction m with
  | nil => simp [Memory.insert]
  | cons d m ih =>
    obtain ⟨k, e⟩ := d
    have hk : k ≠ a := h (k, e) (by simp)
    simp only [Memory.insert]
    split
    · simp
    · simp [hk, ih (fun c hc => h c (by simp [hc]))]

/-- A read of the address just written gives the byte written. -/
theorem read_write_same (m : Memory) {a : Nat} (b : Byte) (h : a < memSize) : (m.write a b).read a = b := by
  unfold Memory.write
  split
  · split
    · rename_i hb
      rw [read_remove_same, hb]
    · exact read_insert_same _ _ _ fun c hc => ((mem_remove m a c).1 hc).2
  · contradiction

/-- A write leaves every other address alone. -/
theorem read_write_other (m : Memory) {a a' : Nat} (b : Byte) (h : a' ≠ a) :
    (m.write a b).read a' = m.read a' := by
  unfold Memory.write
  split
  · split
    · exact read_remove_other m h
    · rw [read_insert_other _ _ h, read_remove_other m h]
  · rfl

/-- Writes from `a` up leave every address outside them alone. -/
theorem read_writeBytes_outside (bs : List Byte) (m : Memory) {a a' : Nat}
    (h : a' < a ∨ a + bs.length ≤ a') : (m.writeBytes a bs).read a' = m.read a' := by
  induction bs generalizing m a with
  | nil => rfl
  | cons b bs ih =>
    simp only [List.length_cons] at h
    rw [Memory.writeBytes, ih (m.write a b) (by omega), read_write_other m b (by omega)]

/-- Writes from `a` up put the `k`-th byte at `a + k`. -/
theorem read_writeBytes_inside (bs : List Byte) (m : Memory) {a k : Nat} (hk : k < bs.length)
    (h : a + bs.length ≤ memSize) : (m.writeBytes a bs).read (a + k) = bs[k] := by
  induction bs generalizing m a k with
  | nil => simp at hk
  | cons b bs ih =>
    simp only [List.length_cons] at h hk
    rw [Memory.writeBytes]
    cases k with
    | zero =>
      rw [read_writeBytes_outside bs (m.write a b) (by omega), Nat.add_zero]
      exact read_write_same m b (by omega)
    | succ k =>
      have := ih (m.write a b) (a := a + 1) (k := k) (by omega) (by omega)
      simpa [Nat.add_assoc, Nat.add_comm 1 k] using this

theorem remove_wf {m : Memory} (h : m.wf) (a : Nat) : (m.remove a).wf :=
  ⟨h.1.filter _, fun c hc => h.2 c ((mem_remove m a c).1 hc).1⟩

theorem insert_sorted {m : Memory} {a : Nat} (b : Byte) (h : m.Pairwise (fun c d => c.1 < d.1))
    (ha : ∀ c ∈ m, c.1 ≠ a) : (m.insert a b).Pairwise (fun c d => c.1 < d.1) := by
  induction m with
  | nil => simp [Memory.insert]
  | cons d m ih =>
    obtain ⟨k, e⟩ := d
    have hk : k ≠ a := ha (k, e) (by simp)
    rw [List.pairwise_cons] at h
    simp only [Memory.insert]
    split
    · rename_i hlt
      rw [List.pairwise_cons]
      refine ⟨fun c hc => ?_, List.pairwise_cons.2 h⟩
      rcases List.mem_cons.1 hc with rfl | hc
      · exact hlt
      · exact Nat.lt_trans hlt (h.1 c hc)
    · rw [List.pairwise_cons]
      refine ⟨fun c hc => ?_, ih h.2 fun c hc => ha c (by simp [hc])⟩
      rcases (mem_insert m a b c).1 hc with rfl | hc
      · change k < a
        omega
      · exact h.1 c hc

/-- A write keeps the canonical form. -/
theorem write_wf {m : Memory} (h : m.wf) (a : Nat) (b : Byte) : (m.write a b).wf := by
  unfold Memory.write
  split
  · rename_i ha
    split
    · exact remove_wf h a
    · rename_i hb
      refine ⟨insert_sorted b (remove_wf h a).1 fun c hc => ((mem_remove m a c).1 hc).2, fun c hc => ?_⟩
      rcases (mem_insert _ a b c).1 hc with rfl | hc
      · exact ⟨ha, hb⟩
      · exact (remove_wf h a).2 c hc
  · exact h

/-- Writes at rising addresses keep the canonical form. -/
theorem writeBytes_wf {m : Memory} (h : m.wf) (a : Nat) (bs : List Byte) : (m.writeBytes a bs).wf := by
  induction bs generalizing m a with
  | nil => exact h
  | cons b bs ih => exact ih (write_wf h a b) (a + 1)

/-- Reset memory is in the canonical form. -/
theorem reset_wf : State.reset.M.wf := by decide

@[simp] theorem readBytes_length (m : Memory) (a n : Nat) : (m.readBytes a n).length = n := by
  simp [Memory.readBytes]

end Memory

end Sys2Proof.Machine
end

