-- ==== Sys2Proof/Laws/State.lean ====
section
/-! SUPPORT. What each named update of the state does to each field, one lemma per field per update, so that
no proof unfolds a record update. -/

namespace Sys2Proof.Machine.State

variable (s : State)

/-! ## `writeV` -/

@[simp] theorem writeV_V (x : Reg) (b : Byte) : (s.writeV x b).V = s.V.set x b := rfl
@[simp] theorem writeV_I (x : Reg) (b : Byte) : (s.writeV x b).I = s.I := rfl
@[simp] theorem writeV_pc (x : Reg) (b : Byte) : (s.writeV x b).pc = s.pc := rfl
@[simp] theorem writeV_SP (x : Reg) (b : Byte) : (s.writeV x b).SP = s.SP := rfl
@[simp] theorem writeV_STACK (x : Reg) (b : Byte) : (s.writeV x b).STACK = s.STACK := rfl
@[simp] theorem writeV_DT (x : Reg) (b : Byte) : (s.writeV x b).DT = s.DT := rfl
@[simp] theorem writeV_ST (x : Reg) (b : Byte) : (s.writeV x b).ST = s.ST := rfl
@[simp] theorem writeV_M (x : Reg) (b : Byte) : (s.writeV x b).M = s.M := rfl
@[simp] theorem writeV_halted (x : Reg) (b : Byte) : (s.writeV x b).halted = s.halted := rfl
@[simp] theorem writeV_fault (x : Reg) (b : Byte) : (s.writeV x b).fault = s.fault := rfl
@[simp] theorem writeV_started (x : Reg) (b : Byte) : (s.writeV x b).started = s.started := rfl
@[simp] theorem writeV_FB (x : Reg) (b : Byte) : (s.writeV x b).FB = s.FB := rfl
@[simp] theorem writeV_dirty (x : Reg) (b : Byte) : (s.writeV x b).dirty = s.dirty := rfl
@[simp] theorem writeV_toneStop (x : Reg) (b : Byte) : (s.writeV x b).toneStop = s.toneStop := rfl
@[simp] theorem writeV_cfg (x : Reg) (b : Byte) : (s.writeV x b).cfg = s.cfg := rfl
@[simp] theorem writeV_inputs (x : Reg) (b : Byte) : (s.writeV x b).inputs = s.inputs := rfl
@[simp] theorem writeV_draws (x : Reg) (b : Byte) : (s.writeV x b).draws = s.draws := rfl

/-! ## `writeI` -/

@[simp] theorem writeI_V (a : Word) : (s.writeI a).V = s.V := rfl
@[simp] theorem writeI_I (a : Word) : (s.writeI a).I = a := rfl
@[simp] theorem writeI_pc (a : Word) : (s.writeI a).pc = s.pc := rfl
@[simp] theorem writeI_SP (a : Word) : (s.writeI a).SP = s.SP := rfl
@[simp] theorem writeI_STACK (a : Word) : (s.writeI a).STACK = s.STACK := rfl
@[simp] theorem writeI_DT (a : Word) : (s.writeI a).DT = s.DT := rfl
@[simp] theorem writeI_ST (a : Word) : (s.writeI a).ST = s.ST := rfl
@[simp] theorem writeI_M (a : Word) : (s.writeI a).M = s.M := rfl
@[simp] theorem writeI_halted (a : Word) : (s.writeI a).halted = s.halted := rfl
@[simp] theorem writeI_fault (a : Word) : (s.writeI a).fault = s.fault := rfl
@[simp] theorem writeI_started (a : Word) : (s.writeI a).started = s.started := rfl
@[simp] theorem writeI_FB (a : Word) : (s.writeI a).FB = s.FB := rfl
@[simp] theorem writeI_dirty (a : Word) : (s.writeI a).dirty = s.dirty := rfl
@[simp] theorem writeI_toneStop (a : Word) : (s.writeI a).toneStop = s.toneStop := rfl
@[simp] theorem writeI_cfg (a : Word) : (s.writeI a).cfg = s.cfg := rfl
@[simp] theorem writeI_inputs (a : Word) : (s.writeI a).inputs = s.inputs := rfl
@[simp] theorem writeI_draws (a : Word) : (s.writeI a).draws = s.draws := rfl

/-! ## `writeDT` -/

@[simp] theorem writeDT_V (b : Byte) : (s.writeDT b).V = s.V := rfl
@[simp] theorem writeDT_I (b : Byte) : (s.writeDT b).I = s.I := rfl
@[simp] theorem writeDT_pc (b : Byte) : (s.writeDT b).pc = s.pc := rfl
@[simp] theorem writeDT_SP (b : Byte) : (s.writeDT b).SP = s.SP := rfl
@[simp] theorem writeDT_STACK (b : Byte) : (s.writeDT b).STACK = s.STACK := rfl
@[simp] theorem writeDT_DT (b : Byte) : (s.writeDT b).DT = b := rfl
@[simp] theorem writeDT_ST (b : Byte) : (s.writeDT b).ST = s.ST := rfl
@[simp] theorem writeDT_M (b : Byte) : (s.writeDT b).M = s.M := rfl
@[simp] theorem writeDT_halted (b : Byte) : (s.writeDT b).halted = s.halted := rfl
@[simp] theorem writeDT_fault (b : Byte) : (s.writeDT b).fault = s.fault := rfl
@[simp] theorem writeDT_started (b : Byte) : (s.writeDT b).started = s.started := rfl
@[simp] theorem writeDT_FB (b : Byte) : (s.writeDT b).FB = s.FB := rfl
@[simp] theorem writeDT_dirty (b : Byte) : (s.writeDT b).dirty = s.dirty := rfl
@[simp] theorem writeDT_toneStop (b : Byte) : (s.writeDT b).toneStop = s.toneStop := rfl
@[simp] theorem writeDT_cfg (b : Byte) : (s.writeDT b).cfg = s.cfg := rfl
@[simp] theorem writeDT_inputs (b : Byte) : (s.writeDT b).inputs = s.inputs := rfl
@[simp] theorem writeDT_draws (b : Byte) : (s.writeDT b).draws = s.draws := rfl

/-! ## `writeST` -/

@[simp] theorem writeST_V (b : Byte) : (s.writeST b).V = s.V := rfl
@[simp] theorem writeST_I (b : Byte) : (s.writeST b).I = s.I := rfl
@[simp] theorem writeST_pc (b : Byte) : (s.writeST b).pc = s.pc := rfl
@[simp] theorem writeST_SP (b : Byte) : (s.writeST b).SP = s.SP := rfl
@[simp] theorem writeST_STACK (b : Byte) : (s.writeST b).STACK = s.STACK := rfl
@[simp] theorem writeST_DT (b : Byte) : (s.writeST b).DT = s.DT := rfl
@[simp] theorem writeST_ST (b : Byte) : (s.writeST b).ST = b := rfl
@[simp] theorem writeST_M (b : Byte) : (s.writeST b).M = s.M := rfl
@[simp] theorem writeST_halted (b : Byte) : (s.writeST b).halted = s.halted := rfl
@[simp] theorem writeST_fault (b : Byte) : (s.writeST b).fault = s.fault := rfl
@[simp] theorem writeST_started (b : Byte) : (s.writeST b).started = s.started := rfl
@[simp] theorem writeST_FB (b : Byte) : (s.writeST b).FB = s.FB := rfl
@[simp] theorem writeST_dirty (b : Byte) : (s.writeST b).dirty = s.dirty := rfl
@[simp] theorem writeST_toneStop (b : Byte) : (s.writeST b).toneStop = s.toneStop := rfl
@[simp] theorem writeST_cfg (b : Byte) : (s.writeST b).cfg = s.cfg := rfl
@[simp] theorem writeST_inputs (b : Byte) : (s.writeST b).inputs = s.inputs := rfl
@[simp] theorem writeST_draws (b : Byte) : (s.writeST b).draws = s.draws := rfl

/-! ## `writeM` -/

@[simp] theorem writeM_V (m : Memory) : (s.writeM m).V = s.V := rfl
@[simp] theorem writeM_I (m : Memory) : (s.writeM m).I = s.I := rfl
@[simp] theorem writeM_pc (m : Memory) : (s.writeM m).pc = s.pc := rfl
@[simp] theorem writeM_SP (m : Memory) : (s.writeM m).SP = s.SP := rfl
@[simp] theorem writeM_STACK (m : Memory) : (s.writeM m).STACK = s.STACK := rfl
@[simp] theorem writeM_DT (m : Memory) : (s.writeM m).DT = s.DT := rfl
@[simp] theorem writeM_ST (m : Memory) : (s.writeM m).ST = s.ST := rfl
@[simp] theorem writeM_M (m : Memory) : (s.writeM m).M = m := rfl
@[simp] theorem writeM_halted (m : Memory) : (s.writeM m).halted = s.halted := rfl
@[simp] theorem writeM_fault (m : Memory) : (s.writeM m).fault = s.fault := rfl
@[simp] theorem writeM_started (m : Memory) : (s.writeM m).started = s.started := rfl
@[simp] theorem writeM_FB (m : Memory) : (s.writeM m).FB = s.FB := rfl
@[simp] theorem writeM_dirty (m : Memory) : (s.writeM m).dirty = s.dirty := rfl
@[simp] theorem writeM_toneStop (m : Memory) : (s.writeM m).toneStop = s.toneStop := rfl
@[simp] theorem writeM_cfg (m : Memory) : (s.writeM m).cfg = s.cfg := rfl
@[simp] theorem writeM_inputs (m : Memory) : (s.writeM m).inputs = s.inputs := rfl
@[simp] theorem writeM_draws (m : Memory) : (s.writeM m).draws = s.draws := rfl

/-! ## `writeFB` -/

@[simp] theorem writeFB_V (fb : Framebuffer) : (s.writeFB fb).V = s.V := rfl
@[simp] theorem writeFB_I (fb : Framebuffer) : (s.writeFB fb).I = s.I := rfl
@[simp] theorem writeFB_pc (fb : Framebuffer) : (s.writeFB fb).pc = s.pc := rfl
@[simp] theorem writeFB_SP (fb : Framebuffer) : (s.writeFB fb).SP = s.SP := rfl
@[simp] theorem writeFB_STACK (fb : Framebuffer) : (s.writeFB fb).STACK = s.STACK := rfl
@[simp] theorem writeFB_DT (fb : Framebuffer) : (s.writeFB fb).DT = s.DT := rfl
@[simp] theorem writeFB_ST (fb : Framebuffer) : (s.writeFB fb).ST = s.ST := rfl
@[simp] theorem writeFB_M (fb : Framebuffer) : (s.writeFB fb).M = s.M := rfl
@[simp] theorem writeFB_halted (fb : Framebuffer) : (s.writeFB fb).halted = s.halted := rfl
@[simp] theorem writeFB_fault (fb : Framebuffer) : (s.writeFB fb).fault = s.fault := rfl
@[simp] theorem writeFB_started (fb : Framebuffer) : (s.writeFB fb).started = s.started := rfl
@[simp] theorem writeFB_FB (fb : Framebuffer) : (s.writeFB fb).FB = fb := rfl
@[simp] theorem writeFB_dirty (fb : Framebuffer) : (s.writeFB fb).dirty = true := rfl
@[simp] theorem writeFB_toneStop (fb : Framebuffer) : (s.writeFB fb).toneStop = s.toneStop := rfl
@[simp] theorem writeFB_cfg (fb : Framebuffer) : (s.writeFB fb).cfg = s.cfg := rfl
@[simp] theorem writeFB_inputs (fb : Framebuffer) : (s.writeFB fb).inputs = s.inputs := rfl
@[simp] theorem writeFB_draws (fb : Framebuffer) : (s.writeFB fb).draws = s.draws := rfl

/-! ## `goto` -/

@[simp] theorem goto_V (a : Word) : (s.goto a).V = s.V := rfl
@[simp] theorem goto_I (a : Word) : (s.goto a).I = s.I := rfl
@[simp] theorem goto_pc (a : Word) : (s.goto a).pc = a := rfl
@[simp] theorem goto_SP (a : Word) : (s.goto a).SP = s.SP := rfl
@[simp] theorem goto_STACK (a : Word) : (s.goto a).STACK = s.STACK := rfl
@[simp] theorem goto_DT (a : Word) : (s.goto a).DT = s.DT := rfl
@[simp] theorem goto_ST (a : Word) : (s.goto a).ST = s.ST := rfl
@[simp] theorem goto_M (a : Word) : (s.goto a).M = s.M := rfl
@[simp] theorem goto_halted (a : Word) : (s.goto a).halted = s.halted := rfl
@[simp] theorem goto_fault (a : Word) : (s.goto a).fault = s.fault := rfl
@[simp] theorem goto_started (a : Word) : (s.goto a).started = s.started := rfl
@[simp] theorem goto_FB (a : Word) : (s.goto a).FB = s.FB := rfl
@[simp] theorem goto_dirty (a : Word) : (s.goto a).dirty = s.dirty := rfl
@[simp] theorem goto_toneStop (a : Word) : (s.goto a).toneStop = s.toneStop := rfl
@[simp] theorem goto_cfg (a : Word) : (s.goto a).cfg = s.cfg := rfl
@[simp] theorem goto_inputs (a : Word) : (s.goto a).inputs = s.inputs := rfl
@[simp] theorem goto_draws (a : Word) : (s.goto a).draws = s.draws := rfl

/-! ## `advance` -/

@[simp] theorem advance_V : (s.advance).V = s.V := rfl
@[simp] theorem advance_I : (s.advance).I = s.I := rfl
@[simp] theorem advance_pc : (s.advance).pc = s.pc + 2#16 := rfl
@[simp] theorem advance_SP : (s.advance).SP = s.SP := rfl
@[simp] theorem advance_STACK : (s.advance).STACK = s.STACK := rfl
@[simp] theorem advance_DT : (s.advance).DT = s.DT := rfl
@[simp] theorem advance_ST : (s.advance).ST = s.ST := rfl
@[simp] theorem advance_M : (s.advance).M = s.M := rfl
@[simp] theorem advance_halted : (s.advance).halted = s.halted := rfl
@[simp] theorem advance_fault : (s.advance).fault = s.fault := rfl
@[simp] theorem advance_started : (s.advance).started = s.started := rfl
@[simp] theorem advance_FB : (s.advance).FB = s.FB := rfl
@[simp] theorem advance_dirty : (s.advance).dirty = s.dirty := rfl
@[simp] theorem advance_toneStop : (s.advance).toneStop = s.toneStop := rfl
@[simp] theorem advance_cfg : (s.advance).cfg = s.cfg := rfl
@[simp] theorem advance_inputs : (s.advance).inputs = s.inputs := rfl
@[simp] theorem advance_draws : (s.advance).draws = s.draws := rfl

/-! ## `skipIf` -/

@[simp] theorem skipIf_V (c : Bool) : (s.skipIf c).V = s.V := rfl
@[simp] theorem skipIf_I (c : Bool) : (s.skipIf c).I = s.I := rfl
@[simp] theorem skipIf_pc (c : Bool) : (s.skipIf c).pc = if c then s.pc + 4#16 else s.pc + 2#16 := rfl
@[simp] theorem skipIf_SP (c : Bool) : (s.skipIf c).SP = s.SP := rfl
@[simp] theorem skipIf_STACK (c : Bool) : (s.skipIf c).STACK = s.STACK := rfl
@[simp] theorem skipIf_DT (c : Bool) : (s.skipIf c).DT = s.DT := rfl
@[simp] theorem skipIf_ST (c : Bool) : (s.skipIf c).ST = s.ST := rfl
@[simp] theorem skipIf_M (c : Bool) : (s.skipIf c).M = s.M := rfl
@[simp] theorem skipIf_halted (c : Bool) : (s.skipIf c).halted = s.halted := rfl
@[simp] theorem skipIf_fault (c : Bool) : (s.skipIf c).fault = s.fault := rfl
@[simp] theorem skipIf_started (c : Bool) : (s.skipIf c).started = s.started := rfl
@[simp] theorem skipIf_FB (c : Bool) : (s.skipIf c).FB = s.FB := rfl
@[simp] theorem skipIf_dirty (c : Bool) : (s.skipIf c).dirty = s.dirty := rfl
@[simp] theorem skipIf_toneStop (c : Bool) : (s.skipIf c).toneStop = s.toneStop := rfl
@[simp] theorem skipIf_cfg (c : Bool) : (s.skipIf c).cfg = s.cfg := rfl
@[simp] theorem skipIf_inputs (c : Bool) : (s.skipIf c).inputs = s.inputs := rfl
@[simp] theorem skipIf_draws (c : Bool) : (s.skipIf c).draws = s.draws := rfl

/-! ## `push` -/

@[simp] theorem push_V (a : Word) (h : s.SP.val < 16) : (s.push a h).V = s.V := rfl
@[simp] theorem push_I (a : Word) (h : s.SP.val < 16) : (s.push a h).I = s.I := rfl
@[simp] theorem push_pc (a : Word) (h : s.SP.val < 16) : (s.push a h).pc = s.pc := rfl
@[simp] theorem push_SP (a : Word) (h : s.SP.val < 16) : (s.push a h).SP = ⟨s.SP.val + 1, by omega⟩ := rfl
@[simp] theorem push_STACK (a : Word) (h : s.SP.val < 16) : (s.push a h).STACK = s.STACK.set s.SP.val a := rfl
@[simp] theorem push_DT (a : Word) (h : s.SP.val < 16) : (s.push a h).DT = s.DT := rfl
@[simp] theorem push_ST (a : Word) (h : s.SP.val < 16) : (s.push a h).ST = s.ST := rfl
@[simp] theorem push_M (a : Word) (h : s.SP.val < 16) : (s.push a h).M = s.M := rfl
@[simp] theorem push_halted (a : Word) (h : s.SP.val < 16) : (s.push a h).halted = s.halted := rfl
@[simp] theorem push_fault (a : Word) (h : s.SP.val < 16) : (s.push a h).fault = s.fault := rfl
@[simp] theorem push_started (a : Word) (h : s.SP.val < 16) : (s.push a h).started = s.started := rfl
@[simp] theorem push_FB (a : Word) (h : s.SP.val < 16) : (s.push a h).FB = s.FB := rfl
@[simp] theorem push_dirty (a : Word) (h : s.SP.val < 16) : (s.push a h).dirty = s.dirty := rfl
@[simp] theorem push_toneStop (a : Word) (h : s.SP.val < 16) : (s.push a h).toneStop = s.toneStop := rfl
@[simp] theorem push_cfg (a : Word) (h : s.SP.val < 16) : (s.push a h).cfg = s.cfg := rfl
@[simp] theorem push_inputs (a : Word) (h : s.SP.val < 16) : (s.push a h).inputs = s.inputs := rfl
@[simp] theorem push_draws (a : Word) (h : s.SP.val < 16) : (s.push a h).draws = s.draws := rfl

/-! ## `popPc` -/

@[simp] theorem popPc_V (h : 0 < s.SP.val) : (s.popPc h).V = s.V := rfl
@[simp] theorem popPc_I (h : 0 < s.SP.val) : (s.popPc h).I = s.I := rfl
@[simp] theorem popPc_pc (h : 0 < s.SP.val) : (s.popPc h).pc = s.STACK[s.SP.val - 1]'(by omega) := rfl
@[simp] theorem popPc_SP (h : 0 < s.SP.val) : (s.popPc h).SP = ⟨s.SP.val - 1, by omega⟩ := rfl
@[simp] theorem popPc_STACK (h : 0 < s.SP.val) : (s.popPc h).STACK = s.STACK := rfl
@[simp] theorem popPc_DT (h : 0 < s.SP.val) : (s.popPc h).DT = s.DT := rfl
@[simp] theorem popPc_ST (h : 0 < s.SP.val) : (s.popPc h).ST = s.ST := rfl
@[simp] theorem popPc_M (h : 0 < s.SP.val) : (s.popPc h).M = s.M := rfl
@[simp] theorem popPc_halted (h : 0 < s.SP.val) : (s.popPc h).halted = s.halted := rfl
@[simp] theorem popPc_fault (h : 0 < s.SP.val) : (s.popPc h).fault = s.fault := rfl
@[simp] theorem popPc_started (h : 0 < s.SP.val) : (s.popPc h).started = s.started := rfl
@[simp] theorem popPc_FB (h : 0 < s.SP.val) : (s.popPc h).FB = s.FB := rfl
@[simp] theorem popPc_dirty (h : 0 < s.SP.val) : (s.popPc h).dirty = s.dirty := rfl
@[simp] theorem popPc_toneStop (h : 0 < s.SP.val) : (s.popPc h).toneStop = s.toneStop := rfl
@[simp] theorem popPc_cfg (h : 0 < s.SP.val) : (s.popPc h).cfg = s.cfg := rfl
@[simp] theorem popPc_inputs (h : 0 < s.SP.val) : (s.popPc h).inputs = s.inputs := rfl
@[simp] theorem popPc_draws (h : 0 < s.SP.val) : (s.popPc h).draws = s.draws := rfl

/-! ## `loadV` -/

@[simp] theorem loadV_V (x : Reg) : (s.loadV x).V = loadBlock s.M s.I.toNat (regsUpTo x) s.V := rfl
@[simp] theorem loadV_I (x : Reg) : (s.loadV x).I = s.I := rfl
@[simp] theorem loadV_pc (x : Reg) : (s.loadV x).pc = s.pc := rfl
@[simp] theorem loadV_SP (x : Reg) : (s.loadV x).SP = s.SP := rfl
@[simp] theorem loadV_STACK (x : Reg) : (s.loadV x).STACK = s.STACK := rfl
@[simp] theorem loadV_DT (x : Reg) : (s.loadV x).DT = s.DT := rfl
@[simp] theorem loadV_ST (x : Reg) : (s.loadV x).ST = s.ST := rfl
@[simp] theorem loadV_M (x : Reg) : (s.loadV x).M = s.M := rfl
@[simp] theorem loadV_halted (x : Reg) : (s.loadV x).halted = s.halted := rfl
@[simp] theorem loadV_fault (x : Reg) : (s.loadV x).fault = s.fault := rfl
@[simp] theorem loadV_started (x : Reg) : (s.loadV x).started = s.started := rfl
@[simp] theorem loadV_FB (x : Reg) : (s.loadV x).FB = s.FB := rfl
@[simp] theorem loadV_dirty (x : Reg) : (s.loadV x).dirty = s.dirty := rfl
@[simp] theorem loadV_toneStop (x : Reg) : (s.loadV x).toneStop = s.toneStop := rfl
@[simp] theorem loadV_cfg (x : Reg) : (s.loadV x).cfg = s.cfg := rfl
@[simp] theorem loadV_inputs (x : Reg) : (s.loadV x).inputs = s.inputs := rfl
@[simp] theorem loadV_draws (x : Reg) : (s.loadV x).draws = s.draws := rfl

/-! ## `faultStep` -/

@[simp] theorem faultStep_V (k : FaultKind) (p : Word) (w : Option Word) (d : Option Nat) : (s.faultStep k p w d).V = s.V := rfl
@[simp] theorem faultStep_I (k : FaultKind) (p : Word) (w : Option Word) (d : Option Nat) : (s.faultStep k p w d).I = s.I := rfl
@[simp] theorem faultStep_pc (k : FaultKind) (p : Word) (w : Option Word) (d : Option Nat) : (s.faultStep k p w d).pc = s.pc := rfl
@[simp] theorem faultStep_SP (k : FaultKind) (p : Word) (w : Option Word) (d : Option Nat) : (s.faultStep k p w d).SP = s.SP := rfl
@[simp] theorem faultStep_STACK (k : FaultKind) (p : Word) (w : Option Word) (d : Option Nat) : (s.faultStep k p w d).STACK = s.STACK := rfl
@[simp] theorem faultStep_DT (k : FaultKind) (p : Word) (w : Option Word) (d : Option Nat) : (s.faultStep k p w d).DT = s.DT := rfl
@[simp] theorem faultStep_ST (k : FaultKind) (p : Word) (w : Option Word) (d : Option Nat) : (s.faultStep k p w d).ST = s.ST := rfl
@[simp] theorem faultStep_M (k : FaultKind) (p : Word) (w : Option Word) (d : Option Nat) : (s.faultStep k p w d).M = s.M := rfl
@[simp] theorem faultStep_halted (k : FaultKind) (p : Word) (w : Option Word) (d : Option Nat) : (s.faultStep k p w d).halted = true := rfl
@[simp] theorem faultStep_fault (k : FaultKind) (p : Word) (w : Option Word) (d : Option Nat) : (s.faultStep k p w d).fault = some ⟨k, p, w, d⟩ := rfl
@[simp] theorem faultStep_started (k : FaultKind) (p : Word) (w : Option Word) (d : Option Nat) : (s.faultStep k p w d).started = s.started := rfl
@[simp] theorem faultStep_FB (k : FaultKind) (p : Word) (w : Option Word) (d : Option Nat) : (s.faultStep k p w d).FB = s.FB := rfl
@[simp] theorem faultStep_dirty (k : FaultKind) (p : Word) (w : Option Word) (d : Option Nat) : (s.faultStep k p w d).dirty = s.dirty := rfl
@[simp] theorem faultStep_toneStop (k : FaultKind) (p : Word) (w : Option Word) (d : Option Nat) : (s.faultStep k p w d).toneStop = false := rfl
@[simp] theorem faultStep_cfg (k : FaultKind) (p : Word) (w : Option Word) (d : Option Nat) : (s.faultStep k p w d).cfg = s.cfg := rfl
@[simp] theorem faultStep_inputs (k : FaultKind) (p : Word) (w : Option Word) (d : Option Nat) : (s.faultStep k p w d).inputs = s.inputs := rfl
@[simp] theorem faultStep_draws (k : FaultKind) (p : Word) (w : Option Word) (d : Option Nat) : (s.faultStep k p w d).draws = s.draws := rfl

/-! ## `beginCycle` -/

@[simp] theorem beginCycle_V : (s.beginCycle).V = s.V := rfl
@[simp] theorem beginCycle_I : (s.beginCycle).I = s.I := rfl
@[simp] theorem beginCycle_pc : (s.beginCycle).pc = s.pc := rfl
@[simp] theorem beginCycle_SP : (s.beginCycle).SP = s.SP := rfl
@[simp] theorem beginCycle_STACK : (s.beginCycle).STACK = s.STACK := rfl
@[simp] theorem beginCycle_DT : (s.beginCycle).DT = s.DT := rfl
@[simp] theorem beginCycle_ST : (s.beginCycle).ST = s.ST := rfl
@[simp] theorem beginCycle_M : (s.beginCycle).M = s.M := rfl
@[simp] theorem beginCycle_halted : (s.beginCycle).halted = s.halted := rfl
@[simp] theorem beginCycle_fault : (s.beginCycle).fault = s.fault := rfl
@[simp] theorem beginCycle_started : (s.beginCycle).started = true := rfl
@[simp] theorem beginCycle_FB : (s.beginCycle).FB = s.FB := rfl
@[simp] theorem beginCycle_dirty : (s.beginCycle).dirty = s.dirty := rfl
@[simp] theorem beginCycle_toneStop : (s.beginCycle).toneStop = s.toneStop := rfl
@[simp] theorem beginCycle_cfg : (s.beginCycle).cfg = s.cfg := rfl
@[simp] theorem beginCycle_inputs : (s.beginCycle).inputs = s.inputs := rfl
@[simp] theorem beginCycle_draws : (s.beginCycle).draws = s.draws := rfl

/-! ## `endCycle` -/

@[simp] theorem endCycle_V : (s.endCycle).V = s.V := rfl
@[simp] theorem endCycle_I : (s.endCycle).I = s.I := rfl
@[simp] theorem endCycle_pc : (s.endCycle).pc = s.pc := rfl
@[simp] theorem endCycle_SP : (s.endCycle).SP = s.SP := rfl
@[simp] theorem endCycle_STACK : (s.endCycle).STACK = s.STACK := rfl
@[simp] theorem endCycle_DT : (s.endCycle).DT = s.DT := rfl
@[simp] theorem endCycle_ST : (s.endCycle).ST = s.ST := rfl
@[simp] theorem endCycle_M : (s.endCycle).M = s.M := rfl
@[simp] theorem endCycle_halted : (s.endCycle).halted = s.halted := rfl
@[simp] theorem endCycle_fault : (s.endCycle).fault = s.fault := rfl
@[simp] theorem endCycle_started : (s.endCycle).started = s.started := rfl
@[simp] theorem endCycle_FB : (s.endCycle).FB = s.FB := rfl
@[simp] theorem endCycle_dirty : (s.endCycle).dirty = s.dirty := rfl
@[simp] theorem endCycle_toneStop : (s.endCycle).toneStop = s.toneStop := rfl
@[simp] theorem endCycle_cfg : (s.endCycle).cfg = s.cfg := rfl
@[simp] theorem endCycle_inputs : (s.endCycle).inputs = s.inputs.tail := rfl
@[simp] theorem endCycle_draws : (s.endCycle).draws = s.draws + 1 := rfl

/-! ## `idle` -/

@[simp] theorem idle_V : (s.idle).V = s.V := rfl
@[simp] theorem idle_I : (s.idle).I = s.I := rfl
@[simp] theorem idle_pc : (s.idle).pc = s.pc := rfl
@[simp] theorem idle_SP : (s.idle).SP = s.SP := rfl
@[simp] theorem idle_STACK : (s.idle).STACK = s.STACK := rfl
@[simp] theorem idle_DT : (s.idle).DT = s.DT := rfl
@[simp] theorem idle_ST : (s.idle).ST = s.ST := rfl
@[simp] theorem idle_M : (s.idle).M = s.M := rfl
@[simp] theorem idle_halted : (s.idle).halted = s.halted := rfl
@[simp] theorem idle_fault : (s.idle).fault = s.fault := rfl
@[simp] theorem idle_started : (s.idle).started = s.started := rfl
@[simp] theorem idle_FB : (s.idle).FB = s.FB := rfl
@[simp] theorem idle_dirty : (s.idle).dirty = s.dirty := rfl
@[simp] theorem idle_toneStop : (s.idle).toneStop = false := rfl
@[simp] theorem idle_cfg : (s.idle).cfg = s.cfg := rfl
@[simp] theorem idle_inputs : (s.idle).inputs = s.inputs := rfl
@[simp] theorem idle_draws : (s.idle).draws = s.draws := rfl

/-! ## `supply` -/

@[simp] theorem supply_V (c : CycleInput) : (s.supply c).V = s.V := rfl
@[simp] theorem supply_I (c : CycleInput) : (s.supply c).I = s.I := rfl
@[simp] theorem supply_pc (c : CycleInput) : (s.supply c).pc = s.pc := rfl
@[simp] theorem supply_SP (c : CycleInput) : (s.supply c).SP = s.SP := rfl
@[simp] theorem supply_STACK (c : CycleInput) : (s.supply c).STACK = s.STACK := rfl
@[simp] theorem supply_DT (c : CycleInput) : (s.supply c).DT = s.DT := rfl
@[simp] theorem supply_ST (c : CycleInput) : (s.supply c).ST = s.ST := rfl
@[simp] theorem supply_M (c : CycleInput) : (s.supply c).M = s.M := rfl
@[simp] theorem supply_halted (c : CycleInput) : (s.supply c).halted = s.halted := rfl
@[simp] theorem supply_fault (c : CycleInput) : (s.supply c).fault = s.fault := rfl
@[simp] theorem supply_started (c : CycleInput) : (s.supply c).started = s.started := rfl
@[simp] theorem supply_FB (c : CycleInput) : (s.supply c).FB = s.FB := rfl
@[simp] theorem supply_dirty (c : CycleInput) : (s.supply c).dirty = s.dirty := rfl
@[simp] theorem supply_toneStop (c : CycleInput) : (s.supply c).toneStop = s.toneStop := rfl
@[simp] theorem supply_cfg (c : CycleInput) : (s.supply c).cfg = s.cfg := rfl
@[simp] theorem supply_inputs (c : CycleInput) : (s.supply c).inputs = c :: s.inputs := rfl
@[simp] theorem supply_draws (c : CycleInput) : (s.supply c).draws = s.draws := rfl

/-! ## `tick` -/

@[simp] theorem tick_V : (s.tick).V = s.V := rfl
@[simp] theorem tick_I : (s.tick).I = s.I := rfl
@[simp] theorem tick_pc : (s.tick).pc = s.pc := rfl
@[simp] theorem tick_SP : (s.tick).SP = s.SP := rfl
@[simp] theorem tick_STACK : (s.tick).STACK = s.STACK := rfl
@[simp] theorem tick_DT : (s.tick).DT = tickTimer s.DT := rfl
@[simp] theorem tick_ST : (s.tick).ST = tickTimer s.ST := rfl
@[simp] theorem tick_M : (s.tick).M = s.M := rfl
@[simp] theorem tick_halted : (s.tick).halted = s.halted := rfl
@[simp] theorem tick_fault : (s.tick).fault = s.fault := rfl
@[simp] theorem tick_started : (s.tick).started = s.started := rfl
@[simp] theorem tick_FB : (s.tick).FB = s.FB := rfl
@[simp] theorem tick_dirty : (s.tick).dirty = s.dirty := rfl
@[simp] theorem tick_toneStop : (s.tick).toneStop = decide (s.ST = 1#8) := rfl
@[simp] theorem tick_cfg : (s.tick).cfg = s.cfg := rfl
@[simp] theorem tick_inputs : (s.tick).inputs = s.inputs := rfl
@[simp] theorem tick_draws : (s.tick).draws = s.draws := rfl

/-! ## `consumeFrame` -/

@[simp] theorem consumeFrame_V : (s.consumeFrame).V = s.V := rfl
@[simp] theorem consumeFrame_I : (s.consumeFrame).I = s.I := rfl
@[simp] theorem consumeFrame_pc : (s.consumeFrame).pc = s.pc := rfl
@[simp] theorem consumeFrame_SP : (s.consumeFrame).SP = s.SP := rfl
@[simp] theorem consumeFrame_STACK : (s.consumeFrame).STACK = s.STACK := rfl
@[simp] theorem consumeFrame_DT : (s.consumeFrame).DT = s.DT := rfl
@[simp] theorem consumeFrame_ST : (s.consumeFrame).ST = s.ST := rfl
@[simp] theorem consumeFrame_M : (s.consumeFrame).M = s.M := rfl
@[simp] theorem consumeFrame_halted : (s.consumeFrame).halted = s.halted := rfl
@[simp] theorem consumeFrame_fault : (s.consumeFrame).fault = s.fault := rfl
@[simp] theorem consumeFrame_started : (s.consumeFrame).started = s.started := rfl
@[simp] theorem consumeFrame_FB : (s.consumeFrame).FB = s.FB := rfl
@[simp] theorem consumeFrame_dirty : (s.consumeFrame).dirty = false := rfl
@[simp] theorem consumeFrame_toneStop : (s.consumeFrame).toneStop = s.toneStop := rfl
@[simp] theorem consumeFrame_cfg : (s.consumeFrame).cfg = s.cfg := rfl
@[simp] theorem consumeFrame_inputs : (s.consumeFrame).inputs = s.inputs := rfl
@[simp] theorem consumeFrame_draws : (s.consumeFrame).draws = s.draws := rfl

end Sys2Proof.Machine.State
end

