-- ==== Sys2Proof/Laws/Ops.lean ====
section
/-! SUPPORT. What each shared operation can do, said once. -/

namespace Sys2Proof.Machine

/-! ## Bounds and faults -/

theorem firstOutOfRange_eq_none {base n : Nat} :
    firstOutOfRange base n = none ↔ n = 0 ∨ base + n ≤ memSize := by
  unfold firstOutOfRange
  split <;> simp [*]

theorem firstOutOfRange_eq_some {base n a : Nat} :
    firstOutOfRange base n = some a ↔ (0 < n ∧ memSize < base + n) ∧ a = max base memSize := by
  unfold firstOutOfRange
  split
  · rename_i h
    simp only [reduceCtorEq, false_iff]
    omega
  · rename_i h
    simp only [Option.some.injEq]
    constructor
    · rintro rfl
      exact ⟨by omega, rfl⟩
    · rintro ⟨-, rfl⟩
      rfl

/-- A data instruction answers its effect, when all its addresses are in memory, or the fault step. -/
theorem withDataBound_cases (i : Instr) (base n : Nat) (s t : State) :
    ((n = 0 ∨ base + n ≤ memSize) ∧ withDataBound i base n s t = .next t) ∨
    ((0 < n ∧ memSize < base + n) ∧ withDataBound i base n s t =
      .next (s.faultStep .dataOutOfBounds s.pc (some (encode i)) (some (max base memSize)))) := by
  cases h : firstOutOfRange base n with
  | none => exact .inl ⟨firstOutOfRange_eq_none.1 h, by simp [withDataBound, h]⟩
  | some a =>
    obtain ⟨hr, rfl⟩ := firstOutOfRange_eq_some.1 h
    exact .inr ⟨hr, by simp [withDataBound, raise, h]⟩

theorem raise_eq (k : FaultKind) (i : Instr) (d : Option Nat) (s : State) :
    raise k i d s = .next (s.faultStep k s.pc (some (encode i)) d) := rfl

/-! ## The parts of the cycle -/

@[simp] theorem onNext_next (f : State → State) (t : State) : onNext f (.next t) = .next (f t) := rfl

/-- What follows a step answers a next state exactly when the step does. -/
theorem onNext_eq_next {f : State → State} {o : Host.Outcome State Fault Refusal} {u : State} :
    onNext f o = .next u ↔ ∃ t, o = .next t ∧ f t = u := by
  cases o <;> simp [onNext]

@[simp] theorem supply_input (s : State) (c : CycleInput) : (s.supply c).input = c := rfl

theorem fetch_eq_none {s : State} : s.fetch = none ↔ 0xFFF ≤ s.pc.toNat := by
  unfold State.fetch
  split
  · simp only [true_iff]
    omega
  · simp only [reduceCtorEq, false_iff]
    omega

theorem fetch_eq_some {s : State} {w : Word} :
    s.fetch = some w ↔
      s.pc.toNat < 0xFFF ∧ w = wordOfBytes (s.M.read s.pc.toNat) (s.M.read (s.pc.toNat + 1)) := by
  unfold State.fetch
  split
  · simp only [reduceCtorEq, false_iff, not_and]
    omega
  · simp only [Option.some.injEq, eq_comm (a := w)]
    constructor
    · exact fun h => ⟨by omega, h⟩
    · exact fun h => h.2

theorem tickUnlessHalted_running {s : State} (h : s.halted = false) : s.tickUnlessHalted = s.tick := by
  simp [State.tickUnlessHalted, h]

theorem tickUnlessHalted_halted {s : State} (h : s.halted = true) : s.tickUnlessHalted = s := by
  simp [State.tickUnlessHalted, h]

/-- A timer counts down by one and stays at 0. -/
theorem tickTimer_toNat (b : Byte) : (State.tickTimer b).toNat = b.toNat - 1 := by
  unfold State.tickTimer
  split
  · rename_i h
    simp [h]
  · rename_i h
    have : b.toNat ≠ 0 := fun hc => h (BitVec.eq_of_toNat_eq (by simpa using hc))
    bv_omega

/-! ## Registers and the block transfers -/

/-- The result is written first and the flag last (R24). -/
@[simp] theorem writeResultFlag_V (s : State) (x : Reg) (r : Byte) (f : Bool) :
    (s.writeResultFlag x r f).V = (s.V.set x r).set flagReg (flagByte f) := rfl

theorem mem_regsUpTo (x k : Reg) : k ∈ regsUpTo x ↔ k ≤ x := by
  revert x k
  decide

/-- A block load gives a register of the list its byte and leaves the others alone. -/
theorem loadBlock_getElem (m : Memory) (base : Nat) (ks : List Reg) (v : Vector Byte 16) (r : Reg) :
    (loadBlock m base ks v)[r] = if r ∈ ks then m.read (base + r.val) else v[r] := by
  induction ks generalizing v with
  | nil => simp [loadBlock]
  | cons k ks ih =>
    rw [loadBlock, ih]
    by_cases hr : r ∈ ks
    · simp [hr]
    · by_cases hk : r = k
      · subst hk
        simp [hr]
      · have hkr : k.val ≠ r.val := fun hc => hk (Fin.ext hc.symm)
        simp [hr, hk, hkr]

/-- A block load of `V[0]`..`V[X]`, register by register (R199). -/
theorem loadV_getElem (s : State) (x r : Reg) :
    (s.loadV x).V[r] = if r ≤ x then s.M.read (s.I.toNat + r.val) else s.V[r] := by
  simp only [State.loadV_V, loadBlock_getElem, mem_regsUpTo]

end Sys2Proof.Machine
end

