-- ==== Sys2Proof/Laws/Operands.lean ====
section
/-! SUPPORT. The operand forms and the flag computations as plain arithmetic. -/

namespace Sys2Proof.Machine

/-! ## Flags and results -/

theorem sum8_toNat (a b : Byte) : (sum8 a b).toNat = (a.toNat + b.toNat) % 256 := by simp [sum8]

theorem diff8_toNat (a b : Byte) : (diff8 a b).toNat = (a.toNat + 256 - b.toNat) % 256 := by
  simp only [diff8, BitVec.toNat_ofInt]
  omega

theorem shiftRight1_toNat (b : Byte) : (shiftRight1 b).toNat = b.toNat / 2 := by
  simp only [shiftRight1, BitVec.toNat_ofNat]
  omega

theorem shiftLeft1_toNat (b : Byte) : (shiftLeft1 b).toNat = b.toNat * 2 % 256 := by simp [shiftLeft1]

theorem outRight_toNat (b : Byte) : (flagByte (outRight b)).toNat = b.toNat % 2 := by
  revert b
  decide

theorem outLeft_toNat (b : Byte) : (flagByte (outLeft b)).toNat = b.toNat / 128 := by
  revert b
  decide

theorem flagByte_decide (p : Prop) [Decidable p] : flagByte (decide p) = if p then 1#8 else 0#8 := by
  simp [flagByte]

theorem flagByte_eq_one (c : Bool) : flagByte c = 1#8 ↔ c = true := by cases c <;> decide

theorem flagByte_eq_zero (c : Bool) : flagByte c = 0#8 ↔ c = false := by cases c <;> decide

/-! ## Registers -/

/-- A register read after a register write. -/
theorem set_getElem (v : Vector Byte 16) (x r : Reg) (b : Byte) :
    (v.set x b)[r] = if r = x then b else v[r] := by
  by_cases h : r = x
  · subst h
    simp
  · have hne : x.val ≠ r.val := fun hc => h (Fin.ext hc.symm)
    simp [h, hne]

theorem addrX_val (a : Addr12) : (addrX a).val = a.toNat / 0x100 := by
  change (a.extractLsb' 8 4).toNat = _
  simp only [BitVec.extractLsb'_toNat, Nat.shiftRight_eq_div_pow]
  omega

theorem zext16_toNat (a : Addr12) : (zext16 a).toNat = a.toNat := by
  simp only [zext16, BitVec.toNat_setWidth]
  omega

/-! ## Keys -/

theorem lowestKey_eq_none {s : State} : s.lowestKey = none ↔ ∀ k < 16, s.input.keys.getLsbD k = false := by
  simp [State.lowestKey, State.keyPressed, List.find?_eq_none]

theorem lowestKey_eq_some {s : State} {k : Nat} : s.lowestKey = some k ↔
    k < 16 ∧ s.input.keys.getLsbD k = true ∧ ∀ j < k, s.input.keys.getLsbD j = false := by
  rw [State.lowestKey, List.find?_range_eq_some]
  simp [State.keyPressed, and_left_comm]

/-- What a key wait does: nothing without a key, else the lowest key into `V[X]`. -/
theorem waitKey_cases (s : State) (x : Reg) :
    (s.lowestKey = none ∧ s.waitKey x = s) ∨
    ∃ k, s.lowestKey = some k ∧ s.waitKey x = (s.writeV x (BitVec.ofNat 8 k)).advance := by
  unfold State.waitKey
  cases s.lowestKey with
  | none => exact .inl ⟨rfl, rfl⟩
  | some k => exact .inr ⟨k, rfl, rfl⟩

/-- What a key test does: the fault step for a key above 15, else the skip. -/
theorem skipOnKey_cases (i : Instr) (x : Reg) (want : Bool) (s : State) :
    (16 ≤ s.V[x].toNat ∧ skipOnKey i x want s =
      .next (s.faultStep .keyOutOfRange s.pc (some (encode i)) (some s.V[x].toNat))) ∨
    (s.V[x].toNat < 16 ∧ skipOnKey i x want s = .next (s.skipIf (s.keyPressed s.V[x].toNat == want))) := by
  by_cases h : 16 ≤ s.V[x].toNat
  · exact .inl ⟨h, if_pos h⟩
  · exact .inr ⟨Nat.not_le.1 h, if_neg h⟩

/-! ## Block transfers -/

@[simp] theorem regsUpTo_length (x : Reg) : (regsUpTo x).length = x.val + 1 := by
  revert x
  decide

@[simp] theorem blockBytes_length (v : Vector Byte 16) (x : Reg) : (blockBytes v x).length = x.val + 1 := by
  simp [blockBytes]

theorem regsUpTo_getElem? (x k : Reg) (h : k ≤ x) : (regsUpTo x)[k.val]? = some k := by
  revert x k
  decide

/-- The `k`-th byte of a block store is `V[k]` (R198). -/
theorem blockBytes_getElem? (v : Vector Byte 16) (x k : Reg) (h : k ≤ x) :
    (blockBytes v x)[k.val]? = some v[k] := by
  simp [blockBytes, regsUpTo_getElem? x k h]

theorem afterTransfer_toNat (s : State) (x : Reg) (h : s.I.toNat + x.val ≤ 0xFFF) :
    (s.afterTransfer x).toNat = s.I.toNat + (if s.cfg.memIncrementsI then x.val + 1 else 0) := by
  unfold State.afterTransfer
  split
  · rw [BitVec.toNat_ofNat]
    omega
  · rfl

end Sys2Proof.Machine
end

