-- ==== Sys2Proof/Laws/PerInstr.lean ====
section
/-! SUPPORT. Per-instruction facts. TableRow: the word of an instruction has the fixed bits that its row of
spec/opcode_table.json gives it. -/

namespace Sys2Proof.Laws.TableRow

/-- The fixed bits of the instruction's row in spec/opcode_table.json, each as (top bit, bottom bit,
value). -/
def fixedBits : Instr → List (Nat × Nat × Nat)
  | .cls => [(15, 0, 224)]
  | .ret => [(15, 0, 238)]
  | .jp _ => [(15, 12, 1)]
  | .call _ => [(15, 12, 2)]
  | .seImm _ _ => [(15, 12, 3)]
  | .sneImm _ _ => [(15, 12, 4)]
  | .seReg _ _ => [(3, 0, 0), (15, 12, 5)]
  | .ldImm _ _ => [(15, 12, 6)]
  | .addImm _ _ => [(15, 12, 7)]
  | .ldReg _ _ => [(3, 0, 0), (15, 12, 8)]
  | .orReg _ _ => [(3, 0, 1), (15, 12, 8)]
  | .andReg _ _ => [(3, 0, 2), (15, 12, 8)]
  | .xorReg _ _ => [(3, 0, 3), (15, 12, 8)]
  | .addReg _ _ => [(3, 0, 4), (15, 12, 8)]
  | .subReg _ _ => [(3, 0, 5), (15, 12, 8)]
  | .shrReg _ _ => [(3, 0, 6), (15, 12, 8)]
  | .subnReg _ _ => [(3, 0, 7), (15, 12, 8)]
  | .shlReg _ _ => [(3, 0, 14), (15, 12, 8)]
  | .sneReg _ _ => [(3, 0, 0), (15, 12, 9)]
  | .ldI _ => [(15, 12, 10)]
  | .jpV0 _ => [(15, 12, 11)]
  | .rnd _ _ => [(15, 12, 12)]
  | .drw _ _ _ => [(15, 12, 13)]
  | .skp _ => [(7, 0, 158), (15, 12, 14)]
  | .sknp _ => [(7, 0, 161), (15, 12, 14)]
  | .ldVxDT _ => [(7, 0, 7), (15, 12, 15)]
  | .ldVxK _ => [(7, 0, 10), (15, 12, 15)]
  | .ldDTVx _ => [(7, 0, 21), (15, 12, 15)]
  | .ldSTVx _ => [(7, 0, 24), (15, 12, 15)]
  | .addIVx _ => [(7, 0, 30), (15, 12, 15)]
  | .bcd _ => [(7, 0, 51), (15, 12, 15)]
  | .storeRegs _ => [(7, 0, 85), (15, 12, 15)]
  | .loadRegs _ => [(7, 0, 101), (15, 12, 15)]

/-- The word of the instruction holds each fixed value of its row. -/
def Statement (i : Instr) : Prop :=
  ∀ b ∈ fixedBits i, (encode i).toNat / 2 ^ b.2.1 % 2 ^ (b.1 + 1 - b.2.1) = b.2.2

theorem cls : Statement .cls := by
  unfold Statement
  decide

theorem ret : Statement .ret := by
  unfold Statement
  decide

theorem jp (a : Addr12) : Statement (.jp a) := by
  simp [Statement, fixedBits, encode, wordNNN_toNat]
  omega

theorem call (a : Addr12) : Statement (.call a) := by
  simp [Statement, fixedBits, encode, wordNNN_toNat]
  omega

theorem seImm (x : Reg) (nn : Byte) : Statement (.seImm x nn) := by
  simp [Statement, fixedBits, encode, wordXNN_toNat]
  omega

theorem sneImm (x : Reg) (nn : Byte) : Statement (.sneImm x nn) := by
  simp [Statement, fixedBits, encode, wordXNN_toNat]
  omega

theorem seReg (x y : Reg) : Statement (.seReg x y) := by
  simp [Statement, fixedBits, encode, wordXYN_toNat]
  omega

theorem ldImm (x : Reg) (nn : Byte) : Statement (.ldImm x nn) := by
  simp [Statement, fixedBits, encode, wordXNN_toNat]
  omega

theorem addImm (x : Reg) (nn : Byte) : Statement (.addImm x nn) := by
  simp [Statement, fixedBits, encode, wordXNN_toNat]
  omega

theorem ldReg (x y : Reg) : Statement (.ldReg x y) := by
  simp [Statement, fixedBits, encode, wordXYN_toNat]
  omega

theorem orReg (x y : Reg) : Statement (.orReg x y) := by
  simp [Statement, fixedBits, encode, wordXYN_toNat]
  omega

theorem andReg (x y : Reg) : Statement (.andReg x y) := by
  simp [Statement, fixedBits, encode, wordXYN_toNat]
  omega

theorem xorReg (x y : Reg) : Statement (.xorReg x y) := by
  simp [Statement, fixedBits, encode, wordXYN_toNat]
  omega

theorem addReg (x y : Reg) : Statement (.addReg x y) := by
  simp [Statement, fixedBits, encode, wordXYN_toNat]
  omega

theorem subReg (x y : Reg) : Statement (.subReg x y) := by
  simp [Statement, fixedBits, encode, wordXYN_toNat]
  omega

theorem shrReg (x y : Reg) : Statement (.shrReg x y) := by
  simp [Statement, fixedBits, encode, wordXYN_toNat]
  omega

theorem subnReg (x y : Reg) : Statement (.subnReg x y) := by
  simp [Statement, fixedBits, encode, wordXYN_toNat]
  omega

theorem shlReg (x y : Reg) : Statement (.shlReg x y) := by
  simp [Statement, fixedBits, encode, wordXYN_toNat]
  omega

theorem sneReg (x y : Reg) : Statement (.sneReg x y) := by
  simp [Statement, fixedBits, encode, wordXYN_toNat]
  omega

theorem ldI (a : Addr12) : Statement (.ldI a) := by
  simp [Statement, fixedBits, encode, wordNNN_toNat]
  omega

theorem jpV0 (a : Addr12) : Statement (.jpV0 a) := by
  simp [Statement, fixedBits, encode, wordNNN_toNat]
  omega

theorem rnd (x : Reg) (nn : Byte) : Statement (.rnd x nn) := by
  simp [Statement, fixedBits, encode, wordXNN_toNat]
  omega

theorem drw (x y : Reg) (n : RowCount) : Statement (.drw x y n) := by
  simp [Statement, fixedBits, encode, wordXYN_toNat]
  omega

theorem skp (x : Reg) : Statement (.skp x) := by
  simp [Statement, fixedBits, encode, wordXNN_toNat]
  omega

theorem sknp (x : Reg) : Statement (.sknp x) := by
  simp [Statement, fixedBits, encode, wordXNN_toNat]
  omega

theorem ldVxDT (x : Reg) : Statement (.ldVxDT x) := by
  simp [Statement, fixedBits, encode, wordXNN_toNat]
  omega

theorem ldVxK (x : Reg) : Statement (.ldVxK x) := by
  simp [Statement, fixedBits, encode, wordXNN_toNat]
  omega

theorem ldDTVx (x : Reg) : Statement (.ldDTVx x) := by
  simp [Statement, fixedBits, encode, wordXNN_toNat]
  omega

theorem ldSTVx (x : Reg) : Statement (.ldSTVx x) := by
  simp [Statement, fixedBits, encode, wordXNN_toNat]
  omega

theorem addIVx (x : Reg) : Statement (.addIVx x) := by
  simp [Statement, fixedBits, encode, wordXNN_toNat]
  omega

theorem bcd (x : Reg) : Statement (.bcd x) := by
  simp [Statement, fixedBits, encode, wordXNN_toNat]
  omega

theorem storeRegs (x : Reg) : Statement (.storeRegs x) := by
  simp [Statement, fixedBits, encode, wordXNN_toNat]
  omega

theorem loadRegs (x : Reg) : Statement (.loadRegs x) := by
  simp [Statement, fixedBits, encode, wordXNN_toNat]
  omega

end Sys2Proof.Laws.TableRow
end

