-- ==== Sys2Proof/Laws/Step.lean ====
section
/-! SUPPORT. What the execute step and the cycle can do, said once. -/

namespace Sys2Proof.Machine

/-- Every instruction answers a next state: either it keeps the control state, or it is the fault step on its
own address and word. -/
theorem exec_cases (i : Instr) (s : State) : ∃ t, exec i s = .next t ∧
    ((t.halted = s.halted ∧ t.fault = s.fault ∧ t.started = s.started ∧ t.toneStop = s.toneStop ∧
        t.cfg = s.cfg ∧ t.inputs = s.inputs ∧ t.draws = s.draws) ∨
      ∃ k d, t = s.faultStep k s.pc (some (encode i)) d) := by
  have bound : ∀ (j : Instr) (base n : Nat) (u : State),
      (u.halted = s.halted ∧ u.fault = s.fault ∧ u.started = s.started ∧ u.toneStop = s.toneStop ∧
        u.cfg = s.cfg ∧ u.inputs = s.inputs ∧ u.draws = s.draws) →
      ∃ t, withDataBound j base n s u = .next t ∧
        ((t.halted = s.halted ∧ t.fault = s.fault ∧ t.started = s.started ∧ t.toneStop = s.toneStop ∧
            t.cfg = s.cfg ∧ t.inputs = s.inputs ∧ t.draws = s.draws) ∨
          ∃ k d, t = s.faultStep k s.pc (some (encode j)) d) := by
    intro j base n u hu
    rcases withDataBound_cases j base n s u with ⟨-, h⟩ | ⟨-, h⟩
    · exact ⟨_, h, .inl hu⟩
    · exact ⟨_, h, .inr ⟨_, _, rfl⟩⟩
  cases i
  case ret =>
    simp only [exec, execRet]
    split
    · exact ⟨_, rfl, .inl (by simp)⟩
    · exact ⟨_, rfl, .inr ⟨_, _, rfl⟩⟩
  case call =>
    simp only [exec, execCall]
    split
    · exact ⟨_, rfl, .inl (by simp)⟩
    · exact ⟨_, rfl, .inr ⟨_, _, rfl⟩⟩
  case drw x y n => exact bound _ _ _ _ (by simp [State.draw])
  case bcd x => exact bound _ _ _ _ (by simp)
  case storeRegs x => exact bound _ _ _ _ (by simp)
  case loadRegs x => exact bound _ _ _ _ (by simp)
  case skp x =>
    rcases skipOnKey_cases (.skp x) x true s with ⟨-, h⟩ | ⟨-, h⟩
    · exact ⟨_, h, .inr ⟨_, _, rfl⟩⟩
    · exact ⟨_, h, .inl (by simp)⟩
  case sknp x =>
    rcases skipOnKey_cases (.sknp x) x false s with ⟨-, h⟩ | ⟨-, h⟩
    · exact ⟨_, h, .inr ⟨_, _, rfl⟩⟩
    · exact ⟨_, h, .inl (by simp)⟩
  case ldVxK x =>
    refine ⟨_, rfl, .inl ?_⟩
    rcases waitKey_cases s x with ⟨-, h⟩ | ⟨k, -, h⟩
    · simp [h]
    · simp [h]
  case orReg => exact ⟨_, rfl, .inl (by simp only [State.writeLogic]; split <;> simp)⟩
  case andReg => exact ⟨_, rfl, .inl (by simp only [State.writeLogic]; split <;> simp)⟩
  case xorReg => exact ⟨_, rfl, .inl (by simp only [State.writeLogic]; split <;> simp)⟩
  all_goals exact ⟨_, rfl, .inl (by simp [State.writeResultFlag])⟩

/-- What a step does, in its four cases: halted, a fetch beyond memory, an unknown word, an instruction. -/
theorem step_cases (s : State) :
    (s.halted = true ∧ step s = .next s.beginCycle.idle.endCycle) ∨
    (s.halted = false ∧ 0xFFF ≤ s.pc.toNat ∧
      step s = .next (s.beginCycle.faultStep .fetchOutOfBounds s.pc none none).endCycle) ∨
    (s.halted = false ∧ s.pc.toNat ≤ 0xFFE ∧ decode s.wordAtPc = none ∧
      step s = .next (s.beginCycle.faultStep .unknownOpcode s.pc (some s.wordAtPc) none).endCycle) ∨
    ∃ i, s.AtInstr i ∧
      step s = onNext State.endCycle (onNext State.tickUnlessHalted (exec i s.beginCycle)) := by
  cases h : s.halted with
  | true => exact .inl ⟨rfl, by simp [step, cycle, h]⟩
  | false =>
    by_cases hp : 0xFFF ≤ s.pc.toNat
    · have hf : s.beginCycle.fetch = none := fetch_eq_none.2 hp
      exact .inr (.inl ⟨rfl, hp, by simp [step, cycle, h, runCycle, hf]⟩)
    · have hf : s.beginCycle.fetch = some s.wordAtPc := fetch_eq_some.2 ⟨by simpa using hp, rfl⟩
      cases hd : decode s.wordAtPc with
      | none =>
        refine .inr (.inr (.inl ⟨rfl, by omega, rfl, ?_⟩))
        simp [step, cycle, h, runCycle, hf, decodeAndExecute, hd]
      | some i =>
        refine .inr (.inr (.inr ⟨i, ⟨h, by omega, hd⟩, ?_⟩))
        simp [step, cycle, h, runCycle, hf, decodeAndExecute, hd, executeAndTick]

end Sys2Proof.Machine
end

