-- ==== Sys2Proof/Tests/Slice0.lean ====
section
/-! SUPPORT. The model's own tests. Expected values are written from the spec: the words from the formats of
30_encoding.md R82, the results from the vectors of 95_test_vectors.md that each docstring names. The last part
shows, for every statement of Obligations.lean with hypotheses, states and operands that meet them. -/

namespace Sys2Proof.Tests

open Sys2Proof.Machine

/-! ## Well-formedness: ill-formed terms are refused -/

theorem test_config_without_columns_is_ill_formed : Config.wf { fbW := 0 } = false := by decide

theorem test_config_without_rows_is_ill_formed : Config.wf { fbH := 0 } = false := by decide

theorem test_default_config_is_well_formed : Config.wf Config.default = true := by decide

/-- W10: 3585 bytes do not fit. -/
theorem test_program_too_long_is_ill_formed :
    Program.wf (List.replicate 3585 0#8) = false := by
  rw [Program.wf, List.length_replicate]
  decide

/-- W10: 3584 bytes fit. -/
theorem test_longest_program_is_well_formed :
    Program.wf (List.replicate 3584 0#8) = true := by
  rw [Program.wf, List.length_replicate]
  decide

theorem test_memory_unsorted_is_ill_formed : ¬Memory.wf [(2, 1#8), (1, 1#8)] := by decide

theorem test_memory_blank_entry_is_ill_formed : ¬Memory.wf [(1, 0#8)] := by decide

theorem test_memory_outside_is_ill_formed : ¬Memory.wf [(0x1000, 1#8)] := by decide

theorem test_framebuffer_unsorted_is_ill_formed : ¬Framebuffer.wf 64 32 [(1, 0), (0, 5)] := by decide

theorem test_framebuffer_outside_is_ill_formed : ¬Framebuffer.wf 64 32 [(0, 64)] := by decide

theorem test_record_without_word_is_ill_formed :
    FaultRecord.wf ⟨.stackOverflow, 0x0200#16, none, none⟩ = false := by decide

theorem test_fetch_record_with_word_is_ill_formed :
    FaultRecord.wf ⟨.fetchOutOfBounds, 0x1000#16, some 0x2200#16, none⟩ = false := by decide

theorem test_fetch_record_in_memory_is_ill_formed :
    FaultRecord.wf ⟨.fetchOutOfBounds, 0x0FFE#16, none, none⟩ = false := by decide

theorem test_record_with_wrong_word_is_ill_formed :
    FaultRecord.wf ⟨.unknownOpcode, 0x0200#16, some 0x00E0#16, none⟩ = false := by decide

theorem test_overflow_record_with_wrong_word_is_ill_formed :
    FaultRecord.wf ⟨.stackOverflow, 0x0200#16, some 0x1200#16, none⟩ = false := by decide

theorem test_data_record_in_memory_is_ill_formed :
    FaultRecord.wf ⟨.dataOutOfBounds, 0x0200#16, some 0xF055#16, some 0x0FFF⟩ = false := by decide

theorem test_key_record_of_a_key_is_ill_formed :
    FaultRecord.wf ⟨.keyOutOfRange, 0x0200#16, some 0xE09E#16, some 15⟩ = false := by decide

/-! ## Decode: a word of every row, written from the formats of R82 -/

theorem test_decode_cls : decode 0b0000000011100000#16 = some .cls := by decide

theorem test_decode_ret : decode 0b0000000011101110#16 = some .ret := by decide

theorem test_decode_jp : decode 0b0001101010111100#16 = some (.jp 0xABC#12) := by decide

theorem test_decode_call : decode 0b0010001000010000#16 = some (.call 0x210#12) := by decide

theorem test_decode_seImm : decode 0b0011001100101010#16 = some (.seImm 3 0x2A#8) := by decide

theorem test_decode_sneImm : decode 0b0100001100101011#16 = some (.sneImm 3 0x2B#8) := by decide

theorem test_decode_seReg : decode 0b0101000100100000#16 = some (.seReg 1 2) := by decide

theorem test_decode_ldImm : decode 0b0110101011111111#16 = some (.ldImm 10 0xFF#8) := by decide

theorem test_decode_addImm : decode 0b0111111100000001#16 = some (.addImm 15 0x01#8) := by decide

theorem test_decode_ldReg : decode 0b1000001000010000#16 = some (.ldReg 2 1) := by decide

theorem test_decode_orReg : decode 0b1000000100100001#16 = some (.orReg 1 2) := by decide

theorem test_decode_andReg : decode 0b1000000100100010#16 = some (.andReg 1 2) := by decide

theorem test_decode_xorReg : decode 0b1000000100100011#16 = some (.xorReg 1 2) := by decide

theorem test_decode_addReg : decode 0b1000111100100100#16 = some (.addReg 15 2) := by decide

theorem test_decode_subReg : decode 0b1000111100100101#16 = some (.subReg 15 2) := by decide

theorem test_decode_shrReg : decode 0b1000000100100110#16 = some (.shrReg 1 2) := by decide

theorem test_decode_subnReg : decode 0b1000000100100111#16 = some (.subnReg 1 2) := by decide

theorem test_decode_shlReg : decode 0b1000000100001110#16 = some (.shlReg 1 0) := by decide

theorem test_decode_sneReg : decode 0b1001000100100000#16 = some (.sneReg 1 2) := by decide

theorem test_decode_ldI : decode 0b1010111111111110#16 = some (.ldI 0xFFE#12) := by decide

theorem test_decode_jpV0 : decode 0b1011001000000001#16 = some (.jpV0 0x201#12) := by decide

theorem test_decode_rnd : decode 0b1100011100001111#16 = some (.rnd 7 0x0F#8) := by decide

theorem test_decode_drw : decode 0b1101111100000001#16 = some (.drw 15 0 1) := by decide

theorem test_decode_skp : decode 0b1110010110011110#16 = some (.skp 5) := by decide

theorem test_decode_sknp : decode 0b1110011010100001#16 = some (.sknp 6) := by decide

theorem test_decode_ldVxDT : decode 0b1111001100000111#16 = some (.ldVxDT 3) := by decide

theorem test_decode_ldVxK : decode 0b1111001000001010#16 = some (.ldVxK 2) := by decide

theorem test_decode_ldDTVx : decode 0b1111100100010101#16 = some (.ldDTVx 9) := by decide

theorem test_decode_ldSTVx : decode 0b1111100000011000#16 = some (.ldSTVx 8) := by decide

theorem test_decode_addIVx : decode 0b1111110000011110#16 = some (.addIVx 12) := by decide

theorem test_decode_bcd : decode 0b1111010000110011#16 = some (.bcd 4) := by decide

theorem test_decode_storeRegs : decode 0b1111000101010101#16 = some (.storeRegs 1) := by decide

theorem test_decode_loadRegs : decode 0b1111111101100101#16 = some (.loadRegs 15) := by decide

/-- V7 to V14: words that are no instruction. -/
theorem test_unknown_words :
    ([0x0123, 0x00E1, 0x5121, 0x8128, 0x812F, 0x9121, 0xE09F, 0xF029, 0xFFFF] : List Word).filterMap
      decode = [] := by decide

theorem test_decodeBytes_truncated : decodeBytes [0x60#8] = .error .truncated := rfl

/-- V13. -/
theorem test_decodeBytes_unknown : decodeBytes [0xF0#8, 0x29#8] = .error (.unknownOpcode 0xF029#16) := rfl

/-- W1: the byte fetched first is the top byte (R62). -/
theorem test_decodeBytes_takes_two_bytes :
    decodeBytes [0x60#8, 0x05#8, 0x61#8] = .ok (.ldImm 0 0x05#8, [0x61#8]) := rfl

theorem test_decodeTableWord_first_byte_on_top : decodeTableWord 16 0x6005 = some (.ldImm 0 0x05#8) := by decide

/-! ## One cycle -/

/-- The state after reset with an instruction word at 0x200. -/
def start (w : Word) : State := State.reset.storeWord 0x200 w

/-- The state after one cycle with the given keys and random byte passes the check `p`. -/
def ends (s : State) (keys : BitVec 16) (rnd : Byte) (p : State → Bool) : Bool := p (s.cycleWith ⟨keys, rnd⟩)

/-- The fault record of a cycle at 0x200 on a word. -/
def haltedOn (kind : FaultKind) (w : Word) (detail : Option Nat) : Option FaultRecord :=
  some ⟨kind, 0x0200#16, some w, detail⟩

/-- V1. -/
theorem test_cycle_at_top_of_memory :
    ends ((State.reset.storeWord 0xFFE 0x6001#16).goto 0x0FFE#16) 0 0
      (fun t => t.V[(0 : Reg)] == 0x01#8 && t.pc == 0x1000#16) := by decide

/-- V3. -/
theorem test_fetch_beyond_memory :
    ends (State.reset.goto 0x0FFF#16) 0 0
      (fun t => t.fault == some ⟨.fetchOutOfBounds, 0x0FFF#16, none, none⟩) := by decide

/-- V5. -/
theorem test_cycle_at_odd_address :
    ends ((State.reset.storeWord 0x203 0x6009#16).goto 0x0203#16) 0 0
      (fun t => t.V[(0 : Reg)] == 0x09#8 && t.pc == 0x0205#16) := by decide

/-- V15. -/
theorem test_halted_cycle_does_not_tick :
    ends { State.reset with halted := true, DT := 5, ST := 5 } 0 0
      (fun t => t.DT == 0x05#8 && t.ST == 0x05#8 && t.toneStop == false) := by decide

/-- V16. -/
theorem test_faulting_cycle_does_not_tick :
    ends (((start 0x0000#16).writeST 0x01#8).writeDT 0x04#8) 0 0
      (fun t => t.ST == 0x01#8 && t.DT == 0x04#8 && t.toneStop == false) := by decide

/-- V7. -/
theorem test_unknown_word_halts :
    ends (start 0x0123#16) 0 0
      (fun t => t.fault == haltedOn .unknownOpcode 0x0123#16 none && t.pc == 0x0200#16) := by decide

/-- V102. -/
theorem test_tone_stop_on_last_tick :
    ends (((start 0x6000#16).writeST 0x01#8).writeDT 0x01#8) 0 0
      (fun t => t.ST == 0#8 && t.DT == 0#8 && t.toneStop == true) := by decide

/-- W1: the word placed by `withFetchWord` is the one that runs. -/
theorem test_withFetchWord_runs_the_word :
    ends (State.reset.withFetchWord 16 0x6005) 0 0
      (fun t => t.V[(0 : Reg)] == 0x05#8 && t.pc == 0x0202#16) := by decide

/-! ## Display -/

/-- V20. -/
theorem test_cls_clears :
    ends { start 0x00E0#16 with FB := [(5, 7)] } 0 0
      (fun t => t.FB == [] && t.dirty == true && t.pc == 0x0202#16) := by decide

/-- V22. -/
theorem test_drw_wraps_horizontally :
    ends
      (((((start 0xD011#16).storeWord 0x300 0xE000#16).writeI 0x0300#16).writeV 0 0x3E#8).writeV 1 0x1F#8)
      0 0
      (fun t => t.FB == [(31, 0), (31, 62), (31, 63)] && t.V[(15 : Reg)] == 0x00#8) := by decide

/-- V28: `VF` is read as the column before it takes the collision. -/
theorem test_drw_collision_reads_old_flag :
    ends
      ((((({ start 0xDF01#16 with FB := [(2, 3)] }).storeWord 0x300 0xC000#16).writeI 0x0300#16).writeV 15 0x03#8).writeV 0 0x02#8)
      0 0
      (fun t => t.FB == [(2, 4)] && t.V[(15 : Reg)] == 0x01#8) := by decide

/-! ## Control flow -/

/-- V46. -/
theorem test_ret_pops :
    ends { start 0x00EE#16 with SP := 1, STACK := (Vector.replicate 16 0#16).set 0 0x0206#16 } 0 0
      (fun t => t.SP == 0 && t.pc == 0x0206#16 && t.STACK[0] == 0x0206#16) := by decide

/-- W2, V47. -/
theorem test_ret_underflow :
    ends (start 0x00EE#16) 0 0
      (fun t => t.fault == haltedOn .stackUnderflow 0x00EE#16 none && t.pc == 0x0200#16) := by decide

/-- V41. -/
theorem test_jp_odd : ends (start 0x1203#16) 0 0 (fun t => t.pc == 0x0203#16) := by decide

/-- V40. -/
theorem test_jp : ends (start 0x1ABC#16) 0 0 (fun t => t.pc == 0x0ABC#16) := by decide

/-- V43. -/
theorem test_call_last_entry :
    ends { start 0x2300#16 with SP := 15 } 0 0
      (fun t => t.SP == 16 && t.STACK[15] == 0x0202#16 && t.pc == 0x0300#16) := by decide

/-- V44. -/
theorem test_call_overflow :
    ends { start 0x2300#16 with SP := 16 } 0 0
      (fun t => t.fault == haltedOn .stackOverflow 0x2300#16 none && t.SP == 16) := by decide

/-- V48. -/
theorem test_seImm_skips :
    ends ((start 0x332A#16).writeV 3 0x2A#8) 0 0 (fun t => t.pc == 0x0204#16) := by decide

/-- V50. -/
theorem test_seImm_compares_all_bits :
    ends ((start 0x3301#16).writeV 3 0x03#8) 0 0 (fun t => t.pc == 0x0202#16) := by decide

/-- V49. -/
theorem test_sneImm_skips :
    ends ((start 0x432B#16).writeV 3 0x2A#8) 0 0 (fun t => t.pc == 0x0204#16) := by decide

/-- V49. -/
theorem test_sneImm_equal :
    ends ((start 0x432A#16).writeV 3 0x2A#8) 0 0 (fun t => t.pc == 0x0202#16) := by decide

/-- V51. -/
theorem test_seReg_skips :
    ends (((start 0x5120#16).writeV 1 0x07#8).writeV 2 0x07#8) 0 0 (fun t => t.pc == 0x0204#16) := by decide

/-- W8. -/
theorem test_seReg_different :
    ends (((start 0x5120#16).writeV 1 0x07#8).writeV 2 0x08#8) 0 0 (fun t => t.pc == 0x0202#16) := by decide

/-- V53. -/
theorem test_sneReg_skips :
    ends (((start 0x9120#16).writeV 1 0x07#8).writeV 2 0x08#8) 0 0 (fun t => t.pc == 0x0204#16) := by decide

/-- V53. -/
theorem test_sneReg_same_register :
    ends ((start 0x9110#16).writeV 1 0x07#8) 0 0 (fun t => t.pc == 0x0202#16) := by decide

/-- V56. -/
theorem test_jpV0_past_memory :
    ends ((start 0xBFFF#16).writeV 0 0xFF#8) 0 0 (fun t => t.pc == 0x10FE#16 && t.halted == false) := by decide

/-- V58. -/
theorem test_jpV0_with_vx :
    ends (({ start 0xB200#16 with cfg := { jumpOffsetUsesVx := true } }.writeV 0 0x01#8).writeV 2 0x10#8) 0 0
      (fun t => t.pc == 0x0210#16) := by decide

/-! ## Registers and the ALU -/

/-- V60. -/
theorem test_ldImm :
    ends (start 0x6AFF#16) 0 0 (fun t => t.V[(10 : Reg)] == 0xFF#8 && t.pc == 0x0202#16) := by decide

/-- V61. -/
theorem test_addImm_no_carry_flag :
    ends (((start 0x7001#16).writeV 0 0xFF#8).writeV 15 0x5A#8) 0 0
      (fun t => t.V[(0 : Reg)] == 0x00#8 && t.V[(15 : Reg)] == 0x5A#8) := by decide

/-- V62. -/
theorem test_addImm_flag_register :
    ends ((start 0x7F01#16).writeV 15 0x10#8) 0 0 (fun t => t.V[(15 : Reg)] == 0x11#8) := by decide

/-- V63. -/
theorem test_ldReg :
    ends (((start 0x8210#16).writeV 1 0x05#8).writeV 15 0x33#8) 0 0
      (fun t => t.V[(2 : Reg)] == 0x05#8 && t.V[(15 : Reg)] == 0x33#8) := by decide

/-- V64. -/
theorem test_orReg :
    ends ((((start 0x8121#16).writeV 1 0xF0#8).writeV 2 0x0F#8).writeV 15 0x01#8) 0 0
      (fun t => t.V[(1 : Reg)] == 0xFF#8 && t.V[(15 : Reg)] == 0x01#8) := by decide

/-- V65. -/
theorem test_orReg_clears_flag :
    ends
      ((({ start 0x8121#16 with cfg := { logicClearsVf := true } }.writeV 1 0xF0#8).writeV 2 0x0F#8).writeV 15 0x01#8)
      0 0
      (fun t => t.V[(1 : Reg)] == 0xFF#8 && t.V[(15 : Reg)] == 0x00#8) := by decide

/-- V66. -/
theorem test_andReg :
    ends (((start 0x8122#16).writeV 1 0xF0#8).writeV 2 0x3C#8) 0 0
      (fun t => t.V[(1 : Reg)] == 0x30#8) := by decide

/-- V67. -/
theorem test_xorReg :
    ends (((start 0x8123#16).writeV 1 0xFF#8).writeV 2 0x0F#8) 0 0
      (fun t => t.V[(1 : Reg)] == 0xF0#8) := by decide

/-- V69. -/
theorem test_addReg_flag_last :
    ends (((start 0x8F24#16).writeV 15 0xFF#8).writeV 2 0x01#8) 0 0
      (fun t => t.V[(15 : Reg)] == 0x01#8) := by decide

/-- W4. -/
theorem test_addReg_255 :
    ends (((start 0x8124#16).writeV 1 0xFE#8).writeV 2 0x01#8) 0 0
      (fun t => t.V[(1 : Reg)] == 0xFF#8 && t.V[(15 : Reg)] == 0x00#8) := by decide

/-- W5. -/
theorem test_subReg_borrow :
    ends (((start 0x8125#16).writeV 1 0x03#8).writeV 2 0x05#8) 0 0
      (fun t => t.V[(1 : Reg)] == 0xFE#8 && t.V[(15 : Reg)] == 0x00#8) := by decide

/-- W5. -/
theorem test_subReg_equal :
    ends (((start 0x8125#16).writeV 1 0x07#8).writeV 2 0x07#8) 0 0
      (fun t => t.V[(1 : Reg)] == 0x00#8 && t.V[(15 : Reg)] == 0x01#8) := by decide

/-- V74. -/
theorem test_shrReg :
    ends ((start 0x8106#16).writeV 1 0x05#8) 0 0
      (fun t => t.V[(1 : Reg)] == 0x02#8 && t.V[(15 : Reg)] == 0x01#8) := by decide

/-- V77. -/
theorem test_shrReg_of_vy :
    ends ({ start 0x8126#16 with cfg := { shiftUsesVy := true } }.writeV 2 0x03#8) 0 0
      (fun t => t.V[(1 : Reg)] == 0x01#8 && t.V[(15 : Reg)] == 0x01#8 && t.V[(2 : Reg)] == 0x03#8) := by decide

/-- V72. -/
theorem test_subnReg_borrow :
    ends (((start 0x8127#16).writeV 1 0x05#8).writeV 2 0x03#8) 0 0
      (fun t => t.V[(1 : Reg)] == 0xFE#8 && t.V[(15 : Reg)] == 0x00#8) := by decide

/-- V73. -/
theorem test_subnReg_no_borrow :
    ends (((start 0x8127#16).writeV 1 0x03#8).writeV 2 0x05#8) 0 0
      (fun t => t.V[(1 : Reg)] == 0x02#8 && t.V[(15 : Reg)] == 0x01#8) := by decide

/-- V78. -/
theorem test_shlReg :
    ends ((start 0x810E#16).writeV 1 0x81#8) 0 0
      (fun t => t.V[(1 : Reg)] == 0x02#8 && t.V[(15 : Reg)] == 0x01#8) := by decide

/-- V80. -/
theorem test_shlReg_flag_last :
    ends ((start 0x8F0E#16).writeV 15 0x40#8) 0 0 (fun t => t.V[(15 : Reg)] == 0x00#8) := by decide

/-- V81. -/
theorem test_ldI : ends (start 0xAFFF#16) 0 0 (fun t => t.I == 0x0FFF#16) := by decide

/-- V82. -/
theorem test_rnd_masked : ends (start 0xC00F#16) 0 0xAB#8 (fun t => t.V[(0 : Reg)] == 0x0B#8) := by decide

/-- V85. -/
theorem test_addIVx_wraps :
    ends ((((start 0xF01E#16).writeI 0xFFFF#16).writeV 0 0x01#8).writeV 15 0x07#8) 0 0
      (fun t => t.I == 0x0000#16 && t.V[(15 : Reg)] == 0x07#8) := by decide

/-- V86. -/
theorem test_addIVx_past_memory :
    ends (((start 0xF01E#16).writeI 0x0FFF#16).writeV 0 0x01#8) 0 0
      (fun t => t.I == 0x1000#16 && t.halted == false) := by decide

/-! ## Keys, timers and memory transfers -/

/-- V90. -/
theorem test_skp_pressed :
    ends ((start 0xE09E#16).writeV 0 0x05#8) 0x0020#16 0 (fun t => t.pc == 0x0204#16) := by decide

/-- V94. -/
theorem test_skp_no_such_key :
    ends ((start 0xE09E#16).writeV 0 0x10#8) 0 0
      (fun t => t.fault == haltedOn .keyOutOfRange 0xE09E#16 (some 0x10)) := by decide

/-- V92. -/
theorem test_sknp_not_pressed :
    ends ((start 0xE0A1#16).writeV 0 0x05#8) 0 0 (fun t => t.pc == 0x0204#16) := by decide

/-- V93. -/
theorem test_sknp_pressed :
    ends ((start 0xE0A1#16).writeV 0 0x05#8) 0xFFFF#16 0 (fun t => t.pc == 0x0202#16) := by decide

/-- V96. -/
theorem test_ldVxDT_before_tick :
    ends ((start 0xF307#16).writeDT 0x10#8) 0 0
      (fun t => t.V[(3 : Reg)] == 0x10#8 && t.DT == 0x0F#8) := by decide

/-- V97. -/
theorem test_ldDTVx_ticks : ends ((start 0xF015#16).writeV 0 0x03#8) 0 0 (fun t => t.DT == 0x02#8) := by decide

/-- V99. -/
theorem test_ldSTVx_ticks :
    ends ((start 0xF018#16).writeV 0 0x03#8) 0 0
      (fun t => t.ST == 0x02#8 && t.toneStop == false && t.soundTimerActive == true) := by decide

/-- V100. -/
theorem test_ldSTVx_one :
    ends ((start 0xF018#16).writeV 0 0x01#8) 0 0 (fun t => t.ST == 0x00#8 && t.toneStop == true) := by decide

/-- V103. -/
theorem test_ldVxK_waits :
    ends (((State.reset.storeWord 0x206 0xF20A#16).goto 0x0206#16).writeDT 0x02#8) 0 0
      (fun t => t.pc == 0x0206#16 && t.DT == 0x01#8) := by decide

/-- V104. -/
theorem test_ldVxK_lowest_key :
    ends ((State.reset.storeWord 0x206 0xF20A#16).goto 0x0206#16) 0x0280#16 0
      (fun t => t.V[(2 : Reg)] == 0x07#8 && t.pc == 0x0208#16) := by decide

/-- V110. -/
theorem test_bcd_top_of_memory :
    ends (((start 0xF433#16).writeV 4 0x7B#8).writeI 0x0FFD#16) 0 0
      (fun t => t.M.read 0xFFD == 0x01#8 && t.M.read 0xFFE == 0x02#8 && t.M.read 0xFFF == 0x03#8) := by decide

/-- V111. -/
theorem test_bcd_out_of_memory :
    ends (((start 0xF433#16).writeV 4 0x7B#8).writeI 0x0FFE#16) 0 0
      (fun t => t.fault == haltedOn .dataOutOfBounds 0xF433#16 (some 0x1000) &&
        t.M.read 0xFFE == 0x00#8) := by decide

/-- V113. -/
theorem test_storeRegs_moves_i :
    ends
      ((({ start 0xF155#16 with cfg := { memIncrementsI := true } }.writeV 0 0x11#8).writeV 1 0x22#8).writeI 0x0300#16)
      0 0
      (fun t => t.M.read 0x300 == 0x11#8 && t.M.read 0x301 == 0x22#8 && t.I == 0x0302#16) := by decide

/-- V115. -/
theorem test_storeRegs_out_of_memory :
    ends (((start 0xF155#16).writeI 0x0FFF#16).writeV 0 0x11#8) 0 0
      (fun t => t.fault == haltedOn .dataOutOfBounds 0xF155#16 (some 0x1000) &&
        t.M.read 0xFFF == 0x00#8) := by decide

/-- V117. -/
theorem test_loadRegs :
    ends ((((start 0xF265#16).storeWord 0x300 0x0102#16).storeWord 0x302 0x0300#16).writeI 0x0300#16) 0 0
      (fun t => t.V[(0 : Reg)] == 0x01#8 && t.V[(1 : Reg)] == 0x02#8 && t.V[(2 : Reg)] == 0x03#8 &&
        t.I == 0x0300#16) := by decide

/-- V116. -/
theorem test_loadRegs_out_of_memory :
    ends ((start 0xF065#16).writeI 0x1000#16) 0 0
      (fun t => t.fault == haltedOn .dataOutOfBounds 0xF065#16 (some 0x1000)) := by decide

/-! ## Reset and load -/

/-- V120. -/
theorem test_second_load_overwrites :
    (transactAll State.reset [.load [0xAA#8, 0xBB#8, 0xCC#8], .load [0x11#8]]).M.readBytes 0x200 3 =
      [0x11#8, 0xBB#8, 0xCC#8] := by decide

/-- V121. -/
theorem test_load_after_cycle_is_refused :
    (transact (transactAll (start 0x6005#16) [.cycle 0#16 0#8]) (.load [0x61#8, 0x07#8])).2 = .refused := by decide

/-- V123. -/
theorem test_reset_after_halt : (transactAll State.reset [.cycle 0#16 0#8, .reset]).halted = false := by decide

/-- V124. -/
theorem test_consumeFrame_clears_dirty :
    (transact { State.reset with dirty := true } .consumeFrame).1.dirty = false := by decide
/-! ## Witnesses: states and operands that meet the hypotheses of the statements, together

Each is named after its statement; where a statement has several clauses, after the clause too. -/

/-- The engine is at the instruction that the test's word encodes. -/
theorem at_start {s : State} {i : Instr} (h : s.halted = false ∧ s.pc.toNat ≤ 0xFFE ∧ decode s.wordAtPc = some i) :
    s.AtInstr i := h

theorem witness_EncodeOfDecode : decode 0x00E0#16 = some .cls ∧ decode 0xFF65#16 = some (.loadRegs 15) := by
  decide

theorem witness_StepRunsDecodedInstruction_runs :
    (start 0x6005#16).AtInstr (.ldImm 0 0x05#8) ∧
    ∃ t, exec (.ldImm 0 0x05#8) { start 0x6005#16 with started := true } = .next t ∧ t.halted = false :=
  ⟨at_start (by decide), _, rfl, by decide⟩

/-- The last address with room for a word. -/
theorem witness_StepRunsDecodedInstruction_at_top :
    ((State.reset.storeWord 0xFFE 0x6001#16).goto 0x0FFE#16).AtInstr (.ldImm 0 0x01#8) :=
  at_start (by decide)

theorem witness_StepRunsDecodedInstruction_halts :
    (start 0x00EE#16).AtInstr .ret ∧
    ∃ t, exec .ret { start 0x00EE#16 with started := true } = .next t ∧ t.halted = true :=
  ⟨at_start (by decide), _, rfl, by decide⟩

/-- Both sides of the bound. -/
theorem witness_FetchBound :
    (State.reset.goto 0x0FFF#16).halted = false ∧ (State.reset.goto 0x0FFF#16).pc.toNat ≥ 0x0FFF ∧
    (State.reset.goto 0x0FFE#16).pc.toNat < 0x0FFF := by decide

/-- At both ends of the addresses of a word. -/
theorem witness_UnknownWordHalts :
    (start 0x0123#16).halted = false ∧ (start 0x0123#16).pc.toNat ≤ 0xFFE ∧
    decode (start 0x0123#16).wordAtPc = none ∧ (State.reset.goto 0x0FFE#16).pc.toNat ≤ 0xFFE ∧
    decode (State.reset.goto 0x0FFE#16).wordAtPc = none := by decide

theorem witness_HaltedCycleIsNoOp : { State.reset with halted := true }.halted = true := by decide

theorem witness_TimersTickOncePerExecutedCycle :
    (∃ t, step (start 0x6005#16) = .next t ∧ t.halted = false) ∧
    ∃ t, step (start 0x00EE#16) = .next t ∧ t.halted = true :=
  ⟨⟨_, rfl, by decide⟩, _, rfl, by decide⟩

theorem witness_FaultsArePrecise :
    (start 0x00EE#16).halted = false ∧ ∃ t, step (start 0x00EE#16) = .next t ∧ t.halted = true :=
  ⟨by decide, _, rfl, by decide⟩

/-- Every kind of fault is one that a running state has. -/
theorem witness_FaultsAreTheTable :
    [start 0x0123#16, { start 0x2300#16 with SP := 16 }, start 0x00EE#16, State.reset.goto 0x0FFF#16,
      (start 0xF033#16).writeI 0x0FFE#16, (start 0xE09E#16).writeV 0 0x10#8].map
      (fun s => (s.halted, (faultOf s).map FaultRecord.kind)) =
    [(false, some .unknownOpcode), (false, some .stackOverflow), (false, some .stackUnderflow),
      (false, some .fetchOutOfBounds), (false, some .dataOutOfBounds), (false, some .keyOutOfRange)] := by
  decide

/-- The last values that raise no fault. -/
theorem witness_FaultsAreTheTable_bounds :
    [{ start 0x2300#16 with SP := 15 }, { start 0x00EE#16 with SP := 1 },
      (start 0xF033#16).writeI 0x0FFD#16, (start 0xF155#16).writeI 0x0FFE#16,
      (start 0xF165#16).writeI 0x0FFE#16, (start 0xD012#16).writeI 0x0FFE#16,
      (start 0xD010#16).writeI 0xFFFF#16, (start 0xE09E#16).writeV 0 0x0F#8].filterMap faultOf = [] := by
  decide

/-- A state with a program, a lit pixel and a return address. -/
def busy : State :=
  { start 0x00EE#16 with FB := [(31, 63)], SP := 1, STACK := (Vector.replicate 16 0#16).set 0 0x1000#16 }

theorem busy_inv : busy.Inv where
  mem_wf := by decide
  fb_wf := by decide
  cfg_wf := by decide
  pc_le := by decide
  stack_le := by decide
  fault_iff := by decide
  halted_started := by decide
  halted_tone := by decide
  fault_record := by simp [busy, start, State.storeWord, State.reset]

theorem witness_StepKeepsInv : busy.Inv ∧ ∃ t, step busy = .next t ∧ t.pc = 0x1000#16 :=
  ⟨busy_inv, _, rfl, by decide⟩

theorem witness_ResetMeetsInv : Config.wf { fbW := 1, fbH := 1, shiftUsesVy := true } = true := by decide

theorem witness_ReachableStatesMeetInv :
    Reachable (transact (transact (State.boot {}) (.load [0x60#8, 0x05#8])).1 (.cycle 0 0)).1 :=
  .transact _ _ (.transact _ _ (.boot _ (by decide)))

theorem witness_MemoryChangesOnlyByStores_bcd :
    ∃ t, step (((start 0xF033#16).writeI 0x0FFD#16).writeV 0 0xFF#8) = .next t ∧
      t.M.read 0xFFF ≠ (((start 0xF033#16).writeI 0x0FFD#16).writeV 0 0xFF#8).M.read 0xFFF :=
  ⟨_, rfl, by decide⟩

theorem witness_MemoryChangesOnlyByStores_block :
    ∃ t, step (((start 0xF155#16).writeI 0x0300#16).writeV 1 0x22#8) = .next t ∧
      t.M.read 0x301 ≠ (((start 0xF155#16).writeI 0x0300#16).writeV 1 0x22#8).M.read 0x301 :=
  ⟨_, rfl, by decide⟩

theorem witness_StackChangesOnlyByCallAndRet :
    (∃ t, step (start 0x2300#16) = .next t ∧ t.SP ≠ (start 0x2300#16).SP) ∧
    ∃ t, step busy = .next t ∧ t.SP ≠ busy.SP :=
  ⟨⟨_, rfl, by decide⟩, _, rfl, by decide⟩

theorem witness_DisplayChangesOnlyByClsAndDrw :
    (∃ t, step (start 0x00E0#16) = .next t ∧ t.dirty ≠ (start 0x00E0#16).dirty) ∧
    ∃ t, step ((start 0xD011#16).writeI 0x0200#16) = .next t ∧ t.FB ≠ ((start 0xD011#16).writeI 0x0200#16).FB :=
  ⟨⟨_, rfl, by decide⟩, _, rfl, by decide⟩

theorem witness_RegistersChangeOnlyByTheTable :
    ∃ t, exec (.addReg 1 2) ((State.reset.writeV 1 0xFF#8).writeV 2 0x02#8) = .next t ∧
      t.V[flagReg] ≠ ((State.reset.writeV 1 0xFF#8).writeV 2 0x02#8).V[flagReg] :=
  ⟨_, rfl, by decide⟩

theorem witness_SpecialRegistersChangeOnlyByTheirInstructions :
    (∃ t, exec (.ldI 0x300#12) State.reset = .next t ∧ t.I ≠ State.reset.I) ∧
    (∃ t, exec (.loadRegs 0) { State.reset with cfg := { memIncrementsI := true } } = .next t ∧
      t.I ≠ State.reset.I) ∧
    (∃ t, exec (.ldDTVx 0) (State.reset.writeV 0 0x02#8) = .next t ∧ t.DT ≠ State.reset.DT) ∧
    ∃ t, exec (.ldSTVx 0) (State.reset.writeV 0 0x02#8) = .next t ∧ t.ST ≠ State.reset.ST :=
  ⟨⟨_, rfl, by decide⟩, ⟨_, rfl, by decide⟩, ⟨_, rfl, by decide⟩, _, rfl, by decide⟩

theorem witness_NonStoringInstructionsKeepMemory :
    (∀ x, Instr.loadRegs 15 ≠ .bcd x) ∧ (∀ x, Instr.loadRegs 15 ≠ .storeRegs x) ∧
    ∃ t, exec (.loadRegs 15) State.reset = .next t :=
  ⟨by simp, by simp, _, rfl⟩

theorem witness_InputsReachOnlyTheirReaders :
    (start 0xC0FF#16).AtInstr (.rnd 0 0xFF#8) ∧
    (readsRandom (.rnd 0 0xFF#8) = true → (⟨0#16, 7#8⟩ : CycleInput).rnd = (⟨1#16, 7#8⟩ : CycleInput).rnd) ∧
    (readsKeys (.rnd 0 0xFF#8) = true → (⟨0#16, 7#8⟩ : CycleInput).keys = (⟨1#16, 7#8⟩ : CycleInput).keys) :=
  ⟨at_start (by decide), by decide, by decide⟩

theorem witness_LoadWritesOrIsRefused_longest :
    State.reset.started = false ∧ (List.replicate 3584 0xAB#8).length ≤ 3584 :=
  ⟨rfl, List.length_replicate.le⟩

theorem witness_LoadWritesOrIsRefused_too_long : (List.replicate 3585 0xAB#8).length > 3584 := by
  rw [List.length_replicate]
  decide

theorem witness_LoadWritesOrIsRefused_started : { State.reset with started := true }.started = true := by decide

theorem witness_SecondLoadOverwrites :
    State.reset.started = false ∧ [0xAA#8, 0xBB#8, 0xCC#8].length ≤ 3584 ∧ [0x11#8].length ≤ 3584 ∧
    0 < [0x11#8].length ∧ 2 < [0xAA#8, 0xBB#8, 0xCC#8].length ∧ [0x11#8].length ≤ 1 := by decide

theorem witness_ReadTransactions : 31 < State.reset.cfg.fbH ∧ 63 < State.reset.cfg.fbW := by decide

/-- A halted state, as `00EE` on an empty stack leaves it. -/
def stopped : State := { (start 0x00EE#16).faultStep .stackUnderflow 0x0200#16 (some 0x00EE#16) none with
  started := true }

theorem witness_HaltedIsTerminalUntilReset :
    stopped.Inv ∧ stopped.halted = true ∧
    Transaction.reset ∉ [Transaction.cycle 0 0, .load [0x60#8, 0x05#8], .consumeFrame] where
  left :=
    { mem_wf := by decide
      fb_wf := by decide
      cfg_wf := by decide
      pc_le := by decide
      stack_le := by decide
      fault_iff := by decide
      halted_started := by decide
      halted_tone := by decide
      fault_record := by
        intro r hr
        obtain rfl : (⟨.stackUnderflow, 0x0200#16, some 0x00EE#16, none⟩ : FaultRecord) = r := Option.some.inj hr
        decide }
  right := by decide

/-- For every reader of an input: the first and the last key, no key, and a host that presses them. -/
theorem witness_CycleReadsItsInputs :
    (start 0xC00F#16).AtInstr (.rnd 0 0x0F#8) ∧ ((start 0xE09E#16).writeV 0 0x0F#8).AtInstr (.skp 0) ∧
    ((start 0xE09E#16).writeV 0 0x0F#8).V[(0 : Reg)].toNat < 16 ∧
    ((start 0xE0A1#16).writeV 0 0x0F#8).AtInstr (.sknp 0) ∧
    ((start 0xE0A1#16).writeV 0 0x0F#8).V[(0 : Reg)].toNat < 16 ∧ (start 0xF20A#16).AtInstr (.ldVxK 2) ∧
    (transact (start 0xF20A#16) (.cycle 0x8000#16 0x00#8)).1.pc = 0x0202#16 :=
  ⟨at_start (by decide), at_start (by decide), by decide, at_start (by decide), by decide,
    at_start (by decide), by decide⟩

theorem witness_CycleReadsItsInputs_keys :
    (∀ k < 16, (0x0000#16).getLsbD k = false) ∧ (0xFFFF#16).getLsbD 0 = true ∧
    (0x8000#16).getLsbD 15 = true ∧ ∀ j < 15, (0x8000#16).getLsbD j = false := by decide

/-! ### Display -/

/-- The first value of `I` whose sprite leaves memory, and the last whose sprite does not. -/
theorem witness_DrwIsThePixelLoop :
    1 ≤ (2 : RowCount).val ∧ (State.reset.writeI 0x0FFF#16).I.toNat + (2 : RowCount).val - 1 > 0xFFF ∧
    (State.reset.writeI 0x0FFE#16).I.toNat + (2 : RowCount).val - 1 ≤ 0xFFF ∧ (0 : RowCount).val = 0 := by
  decide

theorem witness_DrwTurnsCoveredPixels :
    8 ≤ State.reset.cfg.fbW ∧ 15 ≤ State.reset.cfg.fbH ∧
    State.reset.I.toNat + (15 : RowCount).val - 1 ≤ 0xFFF := by decide

/-- A covered pixel that is set: the sprite's first row is the byte 0xD0 at 0x200. -/
theorem witness_DrwTurnsCoveredPixels_collision :
    { (start 0xD011#16).writeI 0x0200#16 with FB := [(0, 0)] }.FB.pixel 0 0 = true ∧
    Covers { (start 0xD011#16).writeI 0x0200#16 with FB := [(0, 0)] } 0 1 1 0 0 :=
  ⟨by decide, 0, 0, by decide⟩

theorem witness_DrwTurnsCoveredPixels_no_collision :
    ∀ yy xx, State.reset.FB.pixel yy xx = true → ¬Covers State.reset 0 1 1 yy xx := by
  simp [State.reset, Framebuffer.pixel]

theorem witness_DrwTwiceRestoresDisplay :
    8 ≤ State.reset.cfg.fbW ∧ 15 ≤ State.reset.cfg.fbH ∧ (0 : Reg) ≠ 15 ∧ (1 : Reg) ≠ 15 ∧
    State.reset.I.toNat + (1 : RowCount).val - 1 ≤ 0xFFF := by decide

/-! ### Control flow -/

theorem witness_RetPopsOrUnderflows :
    State.reset.SP.val = 0 ∧ { State.reset with SP := 1 }.SP.val = (0 : Fin 16).val + 1 ∧
    { State.reset with SP := 16 }.SP.val = (15 : Fin 16).val + 1 := by decide

theorem witness_CallPushesOrOverflows :
    { State.reset with SP := 16 }.SP.val = 16 ∧ State.reset.SP.val = (0 : Fin 16).val ∧
    { State.reset with SP := 15 }.SP.val = (15 : Fin 16).val := by decide

theorem witness_RetAfterCallReturns : { State.reset with SP := 15 }.SP.val < 16 := by decide

theorem witness_SeventeenthCallOverflows : State.reset.SP = 0 := by decide

theorem witness_JumpWithOffset : (2 : Reg).val = (0x2FF#12).toNat / 0x100 ∧
    (15 : Reg).val = (0xFFF#12).toNat / 0x100 := by decide

/-! ### Registers and the ALU -/

theorem witness_LogicOperations :
    State.reset.cfg.logicClearsVf = false ∧
    { State.reset with cfg := { logicClearsVf := true } }.cfg.logicClearsVf = true := by decide

theorem witness_Shifts :
    (0x05#8 = if (State.reset.writeV 1 0x05#8).cfg.shiftUsesVy then (State.reset.writeV 1 0x05#8).V[(2 : Reg)]
      else (State.reset.writeV 1 0x05#8).V[(1 : Reg)]) ∧
    { State.reset with cfg := { shiftUsesVy := true } }.cfg.shiftUsesVy = true := by decide

/-! ### Keys, timers and memory transfers -/

theorem witness_KeySkips :
    (State.reset.writeV 0 0x10#8).V[(0 : Reg)].toNat ≥ 16 ∧ (State.reset.writeV 0 0x0F#8).V[(0 : Reg)].toNat < 16 := by
  decide

theorem witness_WrittenTimerTicksInSameCycle :
    ((start 0xF015#16).writeV 0 0x03#8).AtInstr (.ldDTVx 0) ∧
    ((start 0xF018#16).writeV 0 0x01#8).AtInstr (.ldSTVx 0) :=
  ⟨at_start (by decide), at_start (by decide)⟩

/-- No key, key 0, and key 15 alone. -/
theorem witness_KeyWait :
    (∀ k < 16, (State.reset.supply ⟨0x0000#16, 0#8⟩).input.keys.getLsbD k = false) ∧
    (State.reset.supply ⟨0xFFFF#16, 0#8⟩).input.keys.getLsbD 0 = true ∧
    (State.reset.supply ⟨0x8000#16, 0#8⟩).input.keys.getLsbD 15 = true ∧
    ∀ j < 15, (State.reset.supply ⟨0x8000#16, 0#8⟩).input.keys.getLsbD j = false := by decide

theorem witness_WaitingCycleTicks :
    ((start 0xF20A#16).supply ⟨0x0000#16, 0#8⟩).AtInstr (.ldVxK 2) ∧
    ∀ k < 16, ((start 0xF20A#16).supply ⟨0x0000#16, 0#8⟩).input.keys.getLsbD k = false :=
  ⟨at_start (by decide), by decide⟩

theorem witness_BcdStoresDigits :
    (State.reset.writeI 0x0FFE#16).I.toNat + 2 > 0xFFF ∧ (State.reset.writeI 0x0FFD#16).I.toNat + 2 ≤ 0xFFF := by
  decide

theorem witness_BlockStore :
    (State.reset.writeI 0x0FFF#16).I.toNat + (1 : Reg).val > 0xFFF ∧
    (State.reset.writeI 0x0FFF#16).I.toNat + (0 : Reg).val ≤ 0xFFF := by decide

theorem witness_BlockLoad :
    (State.reset.writeI 0x1000#16).I.toNat + (0 : Reg).val > 0xFFF ∧
    (State.reset.writeI 0x0FF0#16).I.toNat + (15 : Reg).val ≤ 0xFFF := by decide

end Sys2Proof.Tests
end

/-! The inputs of a cycle (R17): which instructions read them, and what a `cycle(keys, rnd)` transaction
does with them. -/

namespace Sys2Proof.Machine

/-! ## A cycle at an instruction -/

/-- The fourth case of `step_cases`, for an instruction that is known. -/
theorem step_of_atInstr {s : State} {i : Instr} (h : s.AtInstr i) :
    step s = onNext State.endCycle (onNext State.tickUnlessHalted (exec i s.beginCycle)) := by
  obtain ⟨hrun, hpc, hdec⟩ := h
  rcases step_cases s with ⟨hh, -⟩ | ⟨-, hp, -⟩ | ⟨-, -, hd, -⟩ | ⟨j, ⟨-, -, hj⟩, hstep⟩
  · simp [hrun] at hh
  · omega
  · simp [hdec] at hd
  · obtain rfl : i = j := Option.some.inj (hdec.symm.trans hj)
    exact hstep

@[simp] theorem beginCycle_input (s : State) : s.beginCycle.input = s.input := rfl

theorem supply_atInstr {s : State} {i : Instr} {c : CycleInput} :
    (s.supply c).AtInstr i ↔ s.AtInstr i := Iff.rfl

theorem transact_cycle_state (s : State) (keys : BitVec 16) (rnd : Byte) :
    (transact s (.cycle keys rnd)).1 = s.cycleWith ⟨keys, rnd⟩ := rfl

/-- A `cycle(keys, rnd)` transaction at `i` is `exec i` with the given inputs, then the end of the cycle. -/
theorem cycleWith_of_exec {s u : State} {i : Instr} {c : CycleInput} (h : s.AtInstr i)
    (hu : exec i (s.supply c).beginCycle = .next u) :
    s.cycleWith c = u.tickUnlessHalted.endCycle := by
  simp [State.cycleWith, step_of_atInstr (supply_atInstr.2 h), hu]

@[simp] theorem tickUnlessHalted_V (s : State) : s.tickUnlessHalted.V = s.V := by
  unfold State.tickUnlessHalted
  split <;> rfl

@[simp] theorem tickUnlessHalted_pc (s : State) : s.tickUnlessHalted.pc = s.pc := by
  unfold State.tickUnlessHalted
  split <;> rfl

/-! ## Another input for the same cycle -/

/-- The state with `d` as the input of the coming cycle, in place of the one it had. -/
def State.withInput (s : State) (d : CycleInput) : State := { s with inputs := d :: s.inputs.tail }

@[simp] theorem withInput_V (s : State) (d : CycleInput) : (s.withInput d).V = s.V := rfl
@[simp] theorem withInput_SP (s : State) (d : CycleInput) : (s.withInput d).SP = s.SP := rfl
@[simp] theorem withInput_cfg (s : State) (d : CycleInput) : (s.withInput d).cfg = s.cfg := rfl
@[simp] theorem withInput_input (s : State) (d : CycleInput) : (s.withInput d).input = d := rfl

/-- The end of a cycle drops its input. -/
theorem endCycle_tickUnlessHalted_withInput (s : State) (d : CycleInput) :
    (s.withInput d).tickUnlessHalted.endCycle = s.tickUnlessHalted.endCycle := by
  cases h : s.halted with
  | true => rw [tickUnlessHalted_halted h, tickUnlessHalted_halted (s := s.withInput d) h]; rfl
  | false => rw [tickUnlessHalted_running h, tickUnlessHalted_running (s := s.withInput d) h]; rfl

theorem withDataBound_withInput (i : Instr) (base n : Nat) (s t : State) (d : CycleInput) :
    withDataBound i base n (s.withInput d) (t.withInput d) =
      onNext (State.withInput · d) (withDataBound i base n s t) := by
  unfold withDataBound
  cases firstOutOfRange base n <;> rfl

theorem writeLogic_withInput (s : State) (x : Reg) (b : Byte) (d : CycleInput) :
    (s.withInput d).writeLogic x b = (s.writeLogic x b).withInput d := by
  cases h : s.cfg.logicClearsVf <;> simp only [State.writeLogic, withInput_cfg, h] <;> rfl

theorem keyPressed_withInput {s : State} {d : CycleInput} (hk : s.input.keys = d.keys) :
    (s.withInput d).keyPressed = s.keyPressed := by
  funext k
  simp [State.keyPressed, hk]

theorem skipOnKey_withInput (i : Instr) (x : Reg) (want : Bool) {s : State} {d : CycleInput}
    (hk : s.input.keys = d.keys) :
    skipOnKey i x want (s.withInput d) = onNext (State.withInput · d) (skipOnKey i x want s) := by
  simp only [skipOnKey, withInput_V, keyPressed_withInput hk]
  split <;> rfl

theorem waitKey_withInput (x : Reg) {s : State} {d : CycleInput} (hk : s.input.keys = d.keys) :
    (s.withInput d).waitKey x = (s.waitKey x).withInput d := by
  have hlow : (s.withInput d).lowestKey = s.lowestKey := by
    simp only [State.lowestKey, keyPressed_withInput hk]
  unfold State.waitKey
  rw [hlow]
  cases s.lowestKey <;> rfl

/-- The execute step looks at the cycle's input only through the part that the instruction reads (R17): the
readers agree on that part, and the others carry `inputs` along. -/
theorem exec_withInput (i : Instr) {s : State} {d : CycleInput}
    (hr : readsRandom i = true → s.input.rnd = d.rnd)
    (hk : readsKeys i = true → s.input.keys = d.keys) :
    exec i (s.withInput d) = onNext (State.withInput · d) (exec i s) := by
  cases i
  case ret =>
    by_cases h : 0 < s.SP.val <;> simp only [exec, execRet, withInput_SP, h, ↓reduceDIte] <;> rfl
  case call nnn =>
    by_cases h : s.SP.val < 16 <;> simp only [exec, execCall, withInput_SP, h, ↓reduceDIte] <;> rfl
  case rnd x nn =>
    simp only [exec, execRnd, State.randomByte, withInput_input, hr rfl]
    rfl
  case drw x y n => exact withDataBound_withInput _ _ _ s (s.draw x y n).advance d
  case bcd x =>
    exact withDataBound_withInput _ _ _ s
      (s.writeM (s.M.writeBytes s.I.toNat (bcdDigits s.V[x]))).advance d
  case storeRegs x =>
    exact withDataBound_withInput _ _ _ s
      ((s.writeM (s.M.writeBytes s.I.toNat (blockBytes s.V x))).writeI (s.afterTransfer x)).advance d
  case loadRegs x =>
    exact withDataBound_withInput _ _ _ s ((s.loadV x).writeI (s.afterTransfer x)).advance d
  case skp | sknp => exact skipOnKey_withInput _ _ _ (hk rfl)
  case ldVxK x => exact congrArg Host.Outcome.next (waitKey_withInput x (hk rfl))
  case orReg | andReg | xorReg =>
    exact congrArg (Host.Outcome.next ∘ State.advance) (writeLogic_withInput ..)
  all_goals rfl

/-- Settles O22: `exec_withInput` carries the one input over into the other, and the end of the cycle
drops both. -/
theorem inputsReachOnlyTheirReaders : Obligations.InputsReachOnlyTheirReaders := by
  intro s i c d hat hr hk
  obtain ⟨t, ht, -⟩ := exec_cases i (s.supply c).beginCycle
  have hexec : exec i (s.supply d).beginCycle = .next (t.withInput d) := by
    have h := exec_withInput i (s := (s.supply c).beginCycle) (d := d) hr hk
    rwa [ht] at h
  rw [step_of_atInstr (supply_atInstr.2 hat), step_of_atInstr (supply_atInstr.2 hat), ht, hexec]
  simp [endCycle_tickUnlessHalted_withInput]

/-! ## A cycle with given inputs, for each instruction that reads one -/

/-- A key test on a key that exists does the skip. -/
theorem skipOnKey_of_lt {i : Instr} {x : Reg} {want : Bool} {s : State} (hx : s.V[x].toNat < 16) :
    skipOnKey i x want s = .next (s.skipIf (s.keyPressed s.V[x].toNat == want)) := by
  rcases skipOnKey_cases i x want s with ⟨hge, -⟩ | ⟨-, h⟩
  · omega
  · exact h

/-- A cycle at an instruction whose meaning is a key test: it skips exactly when the key is as wanted. -/
theorem cycleWith_pc_of_skipOnKey {s : State} {i : Instr} {x : Reg} {want : Bool} (c : CycleInput)
    (hi : exec i = skipOnKey i x want) (hat : s.AtInstr i) (hx : s.V[x].toNat < 16) :
    (s.cycleWith c).pc =
      if c.keys.getLsbD s.V[x].toNat == want then s.pc + 4#16 else s.pc + 2#16 := by
  have hexec := skipOnKey_of_lt (i := i) (want := want) (s := (s.supply c).beginCycle) hx
  rw [← hi] at hexec
  simp [cycleWith_of_exec hat hexec, State.keyPressed]

/-- `CXNN` puts the given random byte, masked by `NN`, into `V[X]` (R165). -/
theorem cycleWith_rnd_V {s : State} {x : Reg} {nn : Byte} (c : CycleInput) (hat : s.AtInstr (.rnd x nn)) :
    (s.cycleWith c).V[x] = c.rnd &&& nn := by
  simp [cycleWith_of_exec (c := c) hat rfl, State.randomByte]

/-- `FX0A` answers the key wait on the given keys (R196). -/
theorem cycleWith_ldVxK {s : State} {x : Reg} (c : CycleInput) (hat : s.AtInstr (.ldVxK x)) :
    s.cycleWith c = ((s.supply c).beginCycle.waitKey x).tickUnlessHalted.endCycle :=
  cycleWith_of_exec hat rfl

/-- `FX0A` with no key given stays and keeps the registers (R196). -/
theorem cycleWith_ldVxK_of_no_key {s : State} {x : Reg} (c : CycleInput) (hat : s.AtInstr (.ldVxK x))
    (hno : ∀ k < 16, c.keys.getLsbD k = false) :
    (s.cycleWith c).pc = s.pc ∧ (s.cycleWith c).V = s.V := by
  have hlow : (s.supply c).beginCycle.lowestKey = none := lowestKey_eq_none.2 hno
  simp [cycleWith_ldVxK c hat, State.waitKey, hlow]

/-- `FX0A` puts the lowest given key into `V[X]` and moves on (R196). -/
theorem cycleWith_ldVxK_of_lowest {s : State} {x : Reg} (c : CycleInput) (hat : s.AtInstr (.ldVxK x))
    {k : Nat} (hk : k < 16) (hset : c.keys.getLsbD k = true) (hleast : ∀ j < k, c.keys.getLsbD j = false) :
    (s.cycleWith c).pc = s.pc + 2#16 ∧ (s.cycleWith c).V = s.V.set x (BitVec.ofNat 8 k) := by
  have hlow : (s.supply c).beginCycle.lowestKey = some k := lowestKey_eq_some.2 ⟨hk, hset, hleast⟩
  simp [cycleWith_ldVxK c hat, State.waitKey, hlow]

/-- Settles O30: one lemma per reader, applied to the inputs of the transaction. -/
theorem cycleReadsItsInputs : Obligations.CycleReadsItsInputs := by
  rintro s _ keys rnd x nn rfl
  rw [transact_cycle_state]
  refine ⟨cycleWith_rnd_V _, fun hat hx => ?_, fun hat hx => ?_,
    cycleWith_ldVxK_of_no_key ⟨keys, rnd⟩, fun hat k hk hset hleast => ?_⟩
  · simpa using cycleWith_pc_of_skipOnKey ⟨keys, rnd⟩ rfl hat hx
  · have hpc := cycleWith_pc_of_skipOnKey ⟨keys, rnd⟩ rfl hat hx
    generalize keys.getLsbD s.V[x].toNat = pressed at hpc ⊢
    cases pressed <;> exact hpc
  · obtain ⟨hpc, hV⟩ := cycleWith_ldVxK_of_lowest ⟨keys, rnd⟩ hat hk hset hleast
    exact ⟨hpc, fun r => hV ▸ set_getElem s.V x r _⟩

end Sys2Proof.Machine

/-! The state (10_state.md): what an instruction and a cycle change in each part of it, and the invariant. -/

/-! ## The fields of an encoded word (R81, R82) -/

namespace Sys2Proof

@[simp] theorem fieldF_wordNNN (f : BitVec 4) (a : Addr12) : fieldF (wordNNN f a) = f.toNat := by
  rw [fieldF_eq, wordNNN_toNat]
  omega

@[simp] theorem fieldNNN_wordNNN (f : BitVec 4) (a : Addr12) : fieldNNN (wordNNN f a) = a :=
  BitVec.eq_of_toNat_eq (by rw [fieldNNN_toNat, wordNNN_toNat]; omega)

@[simp] theorem fieldF_wordXNN (f : BitVec 4) (x : Reg) (nn : Byte) : fieldF (wordXNN f x nn) = f.toNat := by
  rw [fieldF_eq, wordXNN_toNat]
  omega

@[simp] theorem fieldX_wordXNN (f : BitVec 4) (x : Reg) (nn : Byte) : fieldX (wordXNN f x nn) = x :=
  Fin.ext (by rw [fieldX_val, wordXNN_toNat]; omega)

@[simp] theorem fieldNN_wordXNN (f : BitVec 4) (x : Reg) (nn : Byte) : fieldNN (wordXNN f x nn) = nn :=
  BitVec.eq_of_toNat_eq (by rw [fieldNN_toNat, wordXNN_toNat]; omega)

@[simp] theorem fieldF_wordXYN (f : BitVec 4) (x y : Reg) (n : BitVec 4) :
    fieldF (wordXYN f x y n) = f.toNat := by
  rw [fieldF_eq, wordXYN_toNat]
  omega

@[simp] theorem fieldX_wordXYN (f : BitVec 4) (x y : Reg) (n : BitVec 4) : fieldX (wordXYN f x y n) = x :=
  Fin.ext (by rw [fieldX_val, wordXYN_toNat]; omega)

@[simp] theorem fieldY_wordXYN (f : BitVec 4) (x y : Reg) (n : BitVec 4) : fieldY (wordXYN f x y n) = y :=
  Fin.ext (by rw [fieldY_val, wordXYN_toNat]; omega)

@[simp] theorem fieldN_wordXYN (f : BitVec 4) (x y : Reg) (n : BitVec 4) :
    fieldN (wordXYN f x y n) = n.toFin :=
  Fin.ext (by change _ = n.toNat; rw [fieldN_val, wordXYN_toNat]; omega)

@[simp] theorem toFin_nibbleBits (n : RowCount) : (nibbleBits n).toFin = n := rfl

/-- The decoder gives an encoded instruction back (R84): its word has the fixed bits of its own row. -/
theorem decode_encode (i : Instr) : decode (encode i) = some i := by
  cases i
  case cls | ret => rfl
  all_goals simp [encode, decode, decode8, decodeE, decodeF]

end Sys2Proof

namespace Sys2Proof.Machine

/-! ## What an instruction does to each part of the state -/

/-- The values that an instruction can give `pc` (R29): the old one, a step or a skip, a jump target (R121,
R122, R127), a stack entry. -/
def IsNextPc (s : State) (a : Word) : Prop :=
  a = s.pc ∨ a = s.pc + 2#16 ∨ a = s.pc + 4#16 ∨
    (∃ (nnn : Addr12) (b : Byte), a = BitVec.ofNat 16 (nnn.toNat + b.toNat)) ∨ ∃ k : Fin 16, a = s.STACK[k]

/-- The instructions that may write `I` (R26). -/
def MayWriteI (cfg : Config) (i : Instr) : Prop :=
  (∃ nnn, i = .ldI nnn) ∨ (∃ x, i = .addIVx x) ∨
    (cfg.memIncrementsI = true ∧ ((∃ x, i = .storeRegs x) ∨ ∃ x, i = .loadRegs x))

/-- What the execute step of `i` does to each part of the state: the part stays, or `i` is one of the
instructions that the spec lists as writing it. -/
structure ExecEffect (i : Instr) (s t : State) : Prop where
  /-- Memory (R20) stays, or `FX33` or `FX55` stores bytes from `I` up, inside memory (R66). -/
  mem : t.M = s.M ∨ ∃ bs, t.M = s.M.writeBytes s.I.toNat bs ∧ s.I.toNat + bs.length ≤ memSize ∧
    ((∃ x, i = .bcd x ∧ bs.length = 3) ∨ ∃ x, i = .storeRegs x ∧ bs.length = x.val + 1)
  /-- The stack (R30) stays, or `RET` pops, or `CALL` pushes the address after it. -/
  stack : (t.SP = s.SP ∧ t.STACK = s.STACK) ∨
    (i = .ret ∧ t.SP.val + 1 = s.SP.val ∧ t.STACK = s.STACK) ∨
    ∃ nnn, i = .call nnn ∧ t.SP.val = s.SP.val + 1 ∧ ∃ k : Fin 16, t.STACK = s.STACK.set k (s.pc + 2#16)
  /-- The display (R37, R38) stays, or `CLS` clears it, or `DXYN` draws on it. -/
  display : (t.FB = s.FB ∧ t.dirty = s.dirty) ∨
    (t.dirty = true ∧ ((i = .cls ∧ t.FB = []) ∨
      ∃ x y n, i = .drw x y n ∧ t.FB = (drawPixels s.FB (s.sprite x y n)).1))
  pc : IsNextPc s t.pc
  /-- The table of R22. -/
  regs : ∀ r : Reg, t.V[r] ≠ s.V[r] → writesRegOf s.cfg r i = true
  index : t.I ≠ s.I → MayWriteI s.cfg i
  /-- The writer of `DT` (R31). -/
  delay : t.DT ≠ s.DT → ∃ x, i = .ldDTVx x
  /-- The writer of `ST` (R32). -/
  sound : t.ST ≠ s.ST → ∃ x, i = .ldSTVx x
  /-- The record stays, or is one of `i`'s own address with the word and the detail of R231. -/
  fault : t.fault = s.fault ∨
    ∃ r, t.fault = some r ∧ r.pc = s.pc ∧ (s.pc.toNat ≤ 0xFFE → r.wf = true)

/-- The jump to a plain address is the jump with offset 0. -/
theorem isNextPc_zext16 (s : State) (nnn : Addr12) : IsNextPc s (zext16 nnn) := by
  refine .inr (.inr (.inr (.inl ⟨nnn, 0#8, BitVec.eq_of_toNat_eq ?_⟩)))
  simp only [zext16_toNat, BitVec.toNat_ofNat]
  omega

theorem isNextPc_jump (s : State) (nnn : Addr12) (b : Byte) :
    IsNextPc s (BitVec.ofNat 16 (nnn.toNat + b.toNat)) :=
  .inr (.inr (.inr (.inl ⟨nnn, b, rfl⟩)))

/-- `00EE` pops, or takes the fault step (R120). -/
theorem exec_ret_cases {s t : State} (h : exec .ret s = .next t) :
    (∃ hsp, t = s.popPc hsp) ∨ t = s.faultStep .stackUnderflow s.pc (some (encode .ret)) none := by
  simp only [exec, execRet] at h
  split at h
  · exact .inl ⟨_, (Host.Outcome.next.inj h).symm⟩
  · exact .inr (Host.Outcome.next.inj h).symm

/-- `2NNN` pushes and jumps, or takes the fault step (R122). -/
theorem exec_call_cases {nnn : Addr12} {s t : State} (h : exec (.call nnn) s = .next t) :
    (∃ hsp, t = (s.push (s.pc + 2#16) hsp).goto (zext16 nnn)) ∨
      t = s.faultStep .stackOverflow s.pc (some (encode (.call nnn))) none := by
  simp only [exec, execCall] at h
  split at h
  · exact .inl ⟨_, (Host.Outcome.next.inj h).symm⟩
  · exact .inr (Host.Outcome.next.inj h).symm

@[simp] theorem writeLogic_pc (s : State) (x : Reg) (b : Byte) : (s.writeLogic x b).pc = s.pc := by
  unfold State.writeLogic
  split <;> rfl

/-! One rule for each update that a meaning is made of: the update is allowed when `i` is one of its writers. -/

namespace ExecEffect

variable {i : Instr} {s t : State}

theorem refl : ExecEffect i s s where
  mem := .inl rfl
  stack := .inl ⟨rfl, rfl⟩
  display := .inl ⟨rfl, rfl⟩
  pc := .inl rfl
  regs := fun _ => absurd rfl
  index := absurd rfl
  delay := absurd rfl
  sound := absurd rfl
  fault := .inl rfl

theorem faultStep {k : FaultKind} {w : Option Word} {d : Option Nat}
    (hwf : s.pc.toNat ≤ 0xFFE → FaultRecord.wf ⟨k, s.pc, w, d⟩ = true) :
    ExecEffect i s (s.faultStep k s.pc w d) :=
  { refl (s := s) with fault := .inr ⟨_, rfl, rfl, hwf⟩ }

theorem goto (h : ExecEffect i s t) {a : Word} (ha : IsNextPc s a) : ExecEffect i s (t.goto a) :=
  { h with pc := ha }

theorem advance (h : ExecEffect i s t) (hpc : t.pc = s.pc) : ExecEffect i s t.advance :=
  h.goto (.inr (.inl (by rw [hpc])))

theorem skipIf (h : ExecEffect i s t) (hpc : t.pc = s.pc) (c : Bool) : ExecEffect i s (t.skipIf c) :=
  h.goto (by cases c <;> simp [hpc, IsNextPc])

theorem writeV (h : ExecEffect i s t) {x : Reg} (hx : writesRegOf s.cfg x i = true) (b : Byte) :
    ExecEffect i s (t.writeV x b) :=
  { h with
    regs := fun r hr => by
      by_cases hrx : r = x
      · exact hrx ▸ hx
      · exact h.regs r fun hs => hr ((set_getElem t.V x r b).trans ((if_neg hrx).trans hs)) }

/-- The result and the flag (R24): the flag instructions write `VF` as well. -/
theorem writeResultFlag (h : ExecEffect i s t) {x : Reg} (hx : writesRegOf s.cfg x i = true)
    (hf : writesRegOf s.cfg flagReg i = true) (b : Byte) (f : Bool) :
    ExecEffect i s (t.writeResultFlag x b f) :=
  (h.writeV hx b).writeV hf (flagByte f)

/-- The logic operations write `VF` only under `LOGIC_CLEARS_VF` (R156). -/
theorem writeLogic (h : ExecEffect i s t) {x : Reg} (hx : writesRegOf s.cfg x i = true)
    (hf : t.cfg.logicClearsVf = true → writesRegOf s.cfg flagReg i = true) (b : Byte) :
    ExecEffect i s (t.writeLogic x b) := by
  unfold State.writeLogic
  split
  · rename_i hc
    exact (h.writeV hx b).writeV (hf hc) 0#8
  · exact h.writeV hx b

/-- A block load writes the registers up to `V[X]` (R199). -/
theorem loadV {x : Reg} : ExecEffect (.loadRegs x) s (s.loadV x) :=
  { refl (s := s) with
    regs := fun r hr => by
      by_contra hw
      exact hr ((loadV_getElem s x r).trans (if_neg (by simpa [writesRegOf] using hw))) }

theorem writeI (h : ExecEffect i s t) (hi : MayWriteI s.cfg i) (a : Word) : ExecEffect i s (t.writeI a) :=
  { h with index := fun _ => hi }

/-- A block transfer moves `I` only under `MEM_INCREMENTS_I` (R198, R199). -/
theorem writeI_afterTransfer (h : ExecEffect i s t) (hI : t.I = s.I) (x : Reg)
    (hi : (∃ x, i = .storeRegs x) ∨ ∃ x, i = .loadRegs x) :
    ExecEffect i s (t.writeI (s.afterTransfer x)) := by
  cases hc : s.cfg.memIncrementsI with
  | true => exact h.writeI (.inr (.inr ⟨hc, hi⟩)) _
  | false =>
    have hkeep : s.afterTransfer x = t.I := by simp [State.afterTransfer, hc, hI]
    exact hkeep ▸ h

theorem writeDT (h : ExecEffect i s t) (hi : ∃ x, i = .ldDTVx x) (b : Byte) : ExecEffect i s (t.writeDT b) :=
  { h with delay := fun _ => hi }

theorem writeST (h : ExecEffect i s t) (hi : ∃ x, i = .ldSTVx x) (b : Byte) : ExecEffect i s (t.writeST b) :=
  { h with sound := fun _ => hi }

theorem writeM (h : ExecEffect i s t) {bs : List Byte} (hb : s.I.toNat + bs.length ≤ memSize)
    (hi : (∃ x, i = .bcd x ∧ bs.length = 3) ∨ ∃ x, i = .storeRegs x ∧ bs.length = x.val + 1) :
    ExecEffect i s (t.writeM (s.M.writeBytes s.I.toNat bs)) :=
  { h with mem := .inr ⟨bs, rfl, hb, hi⟩ }

theorem writeFB (h : ExecEffect i s t) {fb : Framebuffer} (hfb : (i = .cls ∧ fb = []) ∨
    ∃ x y n, i = .drw x y n ∧ fb = (drawPixels s.FB (s.sprite x y n)).1) : ExecEffect i s (t.writeFB fb) :=
  { h with display := .inr ⟨rfl, hfb⟩ }

theorem popPc (hsp : 0 < s.SP.val) : ExecEffect .ret s (s.popPc hsp) :=
  { refl (s := s) with
    stack := .inr (.inl ⟨rfl, Nat.sub_add_cancel hsp, rfl⟩)
    pc := .inr (.inr (.inr (.inr ⟨⟨s.SP.val - 1, by omega⟩, rfl⟩))) }

theorem push (hsp : s.SP.val < 16) (nnn : Addr12) : ExecEffect (.call nnn) s (s.push (s.pc + 2#16) hsp) :=
  { refl (s := s) with stack := .inr (.inr ⟨nnn, rfl, rfl, ⟨s.SP.val, hsp⟩, rfl⟩) }

/-- A data instruction does what it does when its addresses are in memory, or takes the fault step (R66). -/
theorem of_withDataBound {n : Nat} {u : State} (h : withDataBound i s.I.toNat n s u = .next t)
    (hw : isDataWord (encode i) = true) (hu : n = 0 ∨ s.I.toNat + n ≤ memSize → ExecEffect i s u) :
    ExecEffect i s t := by
  rcases withDataBound_cases i s.I.toNat n s u with ⟨hb, he⟩ | ⟨-, he⟩
  · obtain rfl : u = t := Host.Outcome.next.inj (he.symm.trans h)
    exact hu hb
  · obtain rfl := Host.Outcome.next.inj (he.symm.trans h)
    have hI : max s.I.toNat memSize ≤ 0xFFFF := by simp only [memSize]; omega
    exact faultStep fun hpc => by simp [FaultRecord.wf, hw, hpc, hI]

/-- A key test skips or takes the fault step (R190). -/
theorem of_skipOnKey {x : Reg} {want : Bool} (h : skipOnKey i x want s = .next t)
    (hw : isKeyTestWord (encode i) = true) : ExecEffect i s t := by
  rcases skipOnKey_cases i x want s with ⟨hkey, he⟩ | ⟨-, he⟩
  · obtain rfl := Host.Outcome.next.inj (he.symm.trans h)
    have hV : s.V[x].toNat ≤ 0xFF := by omega
    exact faultStep fun hpc => by simp [FaultRecord.wf, hw, hpc, hkey, hV, -Fin.getElem_fin]
  · obtain rfl := Host.Outcome.next.inj (he.symm.trans h)
    exact refl.skipIf rfl _

theorem waitKey (s : State) (x : Reg) : ExecEffect (.ldVxK x) s (s.waitKey x) := by
  rcases waitKey_cases s x with ⟨-, h⟩ | ⟨k, -, h⟩
  · rw [h]
    exact refl
  · rw [h]
    exact (refl.writeV (by simp [writesRegOf]) _).advance rfl

/-- The execute step does to each part of the state only what the spec lists: the meaning of an instruction is
a chain of the updates above. -/
theorem of_exec (h : exec i s = .next t) : ExecEffect i s t := by
  cases i
  case ret =>
    rcases exec_ret_cases h with ⟨hsp, rfl⟩ | rfl
    · exact .popPc hsp
    · exact .faultStep fun hpc => by simp [FaultRecord.wf, encode, hpc]
  case call nnn =>
    rcases exec_call_cases h with ⟨hsp, rfl⟩ | rfl
    · exact (ExecEffect.push hsp nnn).goto (isNextPc_zext16 s nnn)
    · exact .faultStep fun hpc => by simp [FaultRecord.wf, encode, hpc]
  case drw x y n =>
    exact .of_withDataBound h (by simp [isDataWord, decode_encode]) fun _ =>
      ((refl.writeFB (.inr ⟨x, y, n, rfl, rfl⟩)).writeV (by simp [writesRegOf]) _).advance rfl
  case bcd x =>
    exact .of_withDataBound h (by simp [isDataWord, decode_encode]) fun hb =>
      (refl.writeM (by simpa [bcdDigits] using hb) (.inl ⟨x, rfl, rfl⟩)).advance rfl
  case storeRegs x =>
    exact .of_withDataBound h (by simp [isDataWord, decode_encode]) fun hb =>
      ((refl.writeM (by simpa using hb) (.inr ⟨x, rfl, by simp⟩)).writeI_afterTransfer rfl x
        (.inl ⟨x, rfl⟩)).advance rfl
  case loadRegs x =>
    exact .of_withDataBound h (by simp [isDataWord, decode_encode]) fun _ =>
      (ExecEffect.loadV.writeI_afterTransfer rfl x (.inr ⟨x, rfl⟩)).advance rfl
  case skp | sknp => exact .of_skipOnKey h (by simp [isKeyTestWord, decode_encode])
  all_goals obtain rfl := Host.Outcome.next.inj h
  case cls => exact (refl.writeFB (.inl ⟨rfl, rfl⟩)).advance rfl
  case jp nnn => exact refl.goto (isNextPc_zext16 s nnn)
  case jpV0 nnn => exact refl.goto (isNextPc_jump s nnn _)
  case seImm | sneImm | seReg | sneReg => exact refl.skipIf rfl _
  case ldImm | addImm | ldReg | rnd | ldVxDT =>
    exact (refl.writeV (by simp [writesRegOf]) _).advance rfl
  case orReg | andReg | xorReg =>
    exact (refl.writeLogic (by simp [writesRegOf]) (by simp +contextual [writesRegOf]) _).advance (by simp)
  case addReg | subReg | subnReg | shrReg | shlReg =>
    exact (refl.writeResultFlag (by simp [writesRegOf]) (by simp [writesRegOf]) _ _).advance rfl
  case ldVxK x => exact .waitKey s x
  case ldI nnn => exact (refl.writeI (.inl ⟨nnn, rfl⟩) _).advance rfl
  case addIVx x => exact (refl.writeI (.inr (.inl ⟨x, rfl⟩)) _).advance rfl
  case ldDTVx x => exact (refl.writeDT ⟨x, rfl⟩ _).advance rfl
  case ldSTVx x => exact (refl.writeST ⟨x, rfl⟩ _).advance rfl

end ExecEffect

/-! ## What a step does to each part of the state -/

@[simp] theorem tickUnlessHalted_SP (s : State) : s.tickUnlessHalted.SP = s.SP := by
  unfold State.tickUnlessHalted
  split <;> rfl

@[simp] theorem tickUnlessHalted_STACK (s : State) : s.tickUnlessHalted.STACK = s.STACK := by
  unfold State.tickUnlessHalted
  split <;> rfl

@[simp] theorem tickUnlessHalted_M (s : State) : s.tickUnlessHalted.M = s.M := by
  unfold State.tickUnlessHalted
  split <;> rfl

@[simp] theorem tickUnlessHalted_FB (s : State) : s.tickUnlessHalted.FB = s.FB := by
  unfold State.tickUnlessHalted
  split <;> rfl

@[simp] theorem tickUnlessHalted_dirty (s : State) : s.tickUnlessHalted.dirty = s.dirty := by
  unfold State.tickUnlessHalted
  split <;> rfl

/-- A step keeps memory, the stack and the display, or it is the execute step of the instruction at `pc` and
the end of the cycle. -/
theorem step_keeps_or_executes {s t : State} (h : step s = .next t) :
    (t.M = s.M ∧ t.SP = s.SP ∧ t.STACK = s.STACK ∧ t.FB = s.FB ∧ t.dirty = s.dirty) ∨
    ∃ i u, s.AtInstr i ∧ ExecEffect i s.beginCycle u ∧ t = u.tickUnlessHalted.endCycle := by
  rcases step_cases s with ⟨-, he⟩ | ⟨-, -, he⟩ | ⟨-, -, -, he⟩ | ⟨i, hat, he⟩
  case inr.inr.inr =>
    obtain ⟨u, hu, -⟩ := exec_cases i s.beginCycle
    refine .inr ⟨i, u, hat, .of_exec hu, ?_⟩
    rw [he, hu] at h
    exact (Host.Outcome.next.inj h).symm
  all_goals
    obtain rfl := Host.Outcome.next.inj (he.symm.trans h)
    exact .inl ⟨rfl, rfl, rfl, rfl, rfl⟩

/-- A byte that a run of writes changes is one of those written. -/
theorem Memory.mem_range_of_read_writeBytes_ne {bs : List Byte} {m : Memory} {a a' : Nat}
    (h : (m.writeBytes a bs).read a' ≠ m.read a') : a ≤ a' ∧ a' < a + bs.length := by
  by_contra hout
  exact h (Memory.read_writeBytes_outside bs m (by omega))

/-- Settles O16: the execute step stores only from `I` up, and only `FX33` and `FX55` store. -/
theorem memoryChangesOnlyByStores : Obligations.MemoryChangesOnlyByStores := by
  intro s t a h hne
  rcases step_keeps_or_executes h with ⟨hM, -⟩ | ⟨i, u, hat, hu, rfl⟩
  · exact absurd (by rw [hM]) hne
  · rcases hu.mem with hM | ⟨bs, hM, hbound, hi⟩
    · exact absurd (by simp [hM]) hne
    · simp only [State.endCycle_M, tickUnlessHalted_M, hM] at hne
      obtain ⟨hlo, hhi⟩ := Memory.mem_range_of_read_writeBytes_ne hne
      simp only [State.beginCycle_I, memSize] at hlo hhi hbound
      rcases hi with ⟨x, rfl, hlen⟩ | ⟨x, rfl, hlen⟩
      · exact .inl ⟨x, hat, by omega, by omega, by omega⟩
      · exact .inr ⟨x, hat, by omega, by omega, by omega⟩

/-- Settles O17: the execute step changes the stack only in `CALL` and `RET`. -/
theorem stackChangesOnlyByCallAndRet : Obligations.StackChangesOnlyByCallAndRet := by
  intro s t h hne
  rcases step_keeps_or_executes h with ⟨-, hSP, hSTACK, -⟩ | ⟨i, u, hat, hu, rfl⟩
  · simp [hSP, hSTACK] at hne
  · rcases hu.stack with ⟨hSP, hSTACK⟩ | ⟨rfl, hSP, hSTACK⟩ | ⟨nnn, rfl, hSP, -⟩
    · simp [hSP, hSTACK] at hne
    · exact .inr ⟨hat, by simpa using hSP, by simpa using hSTACK⟩
    · exact .inl ⟨nnn, hat, by simpa using hSP⟩

/-- Settles O18: the execute step changes the display only in `CLS` and `DXYN`, and they set `dirty`. -/
theorem displayChangesOnlyByClsAndDrw : Obligations.DisplayChangesOnlyByClsAndDrw := by
  intro s t h hne
  rcases step_keeps_or_executes h with ⟨-, -, -, hFB, hdirty⟩ | ⟨i, u, hat, hu, rfl⟩
  · simp [hFB, hdirty] at hne
  · rcases hu.display with ⟨hFB, hdirty⟩ | ⟨hdirty, hi⟩
    · simp [hFB, hdirty] at hne
    · refine ⟨by simpa using hdirty, ?_⟩
      rcases hi with ⟨rfl, -⟩ | ⟨x, y, n, rfl, -⟩
      · exact .inl hat
      · exact .inr ⟨x, y, n, hat⟩

/-! ## What the execute step changes -/

/-- Settles O19: the rule for `writeV`, instruction by instruction, is in `ExecEffect.of_exec`. -/
theorem registersChangeOnlyByTheTable : Obligations.RegistersChangeOnlyByTheTable :=
  fun _ _ _ r h => (ExecEffect.of_exec h).regs r

/-- Settles O20: the rules for `writeI`, `writeDT` and `writeST` are in `ExecEffect.of_exec`. -/
theorem specialRegistersChangeOnlyByTheirInstructions :
    Obligations.SpecialRegistersChangeOnlyByTheirInstructions :=
  fun _ _ _ h =>
    have hu := ExecEffect.of_exec h
    ⟨hu.index, hu.delay, hu.sound⟩

/-- Settles O21: what memory takes, `FX33` or `FX55` stores. -/
theorem nonStoringInstructionsKeepMemory : Obligations.NonStoringInstructionsKeepMemory := by
  intro i s t a hbcd hstore h
  rcases (ExecEffect.of_exec h).mem with hM | ⟨-, -, -, ⟨x, hi, -⟩ | ⟨x, hi, -⟩⟩
  · rw [hM]
  · exact absurd hi (hbcd x)
  · exact absurd hi (hstore x)

/-! ## The invariant, update by update -/

theorem Framebuffer.nil_wf (w h : Nat) : Framebuffer.wf w h [] := ⟨.nil, nofun⟩

namespace State.Inv

variable {i : Instr} {s t : State}

theorem beginCycle (h : s.Inv) : s.beginCycle.Inv := { h with halted_started := fun _ => rfl }
theorem endCycle (h : s.Inv) : s.endCycle.Inv := { h with }
theorem supply (h : s.Inv) (c : CycleInput) : (s.supply c).Inv := { h with }
theorem consumeFrame (h : s.Inv) : s.consumeFrame.Inv := { h with }
theorem idle (h : s.Inv) : s.idle.Inv := { h with halted_tone := fun _ => rfl }

theorem writeM (h : s.Inv) {m : Memory} (hm : m.wf) : (s.writeM m).Inv := { h with mem_wf := hm }

theorem tickUnlessHalted (h : s.Inv) : s.tickUnlessHalted.Inv := by
  cases hrun : s.halted with
  | true => rwa [tickUnlessHalted_halted hrun]
  | false =>
    rw [tickUnlessHalted_running hrun]
    exact { h with halted_tone := by simp [hrun] }

/-- The fault step of a cycle keeps the invariant when its record has the form of R231. -/
theorem faultStep (h : s.Inv) (hstarted : s.started = true) {k : FaultKind} {w : Option Word} {d : Option Nat}
    (hwf : FaultRecord.wf ⟨k, s.pc, w, d⟩ = true) : (s.faultStep k s.pc w d).Inv :=
  { h with
    fault_iff := rfl
    halted_started := fun _ => hstarted
    halted_tone := fun _ => rfl
    fault_record := fun r hr => by
      obtain rfl := Option.some.inj hr
      exact ⟨hwf, rfl⟩ }

theorem fault_none (h : s.Inv) (hrun : s.halted = false) : s.fault = none := by
  simpa [hrun] using h.fault_iff

/-- A value that an instruction gives `pc` is at most 0x10FE, which `BNNN` reaches at 0xFFF + 0xFF (R29). -/
theorem nextPc_le (h : s.Inv) (hpc : s.pc.toNat ≤ 0xFFE) {a : Word} (ha : IsNextPc s a) :
    a.toNat ≤ 0x10FE := by
  rcases ha with rfl | rfl | rfl | ⟨nnn, b, rfl⟩ | ⟨k, rfl⟩
  · omega
  · bv_omega
  · bv_omega
  · rw [BitVec.toNat_ofNat]
    omega
  · exact (h.stack_le k).trans (by decide)

/-- The return address that `CALL` pushes is at most 0x1000 (R29). -/
theorem stack_le_of_effect (h : s.Inv) (hpc : s.pc.toNat ≤ 0xFFE) (he : ExecEffect i s t) :
    ∀ k : Fin 16, t.STACK[k].toNat ≤ 0x1000 := by
  rcases he.stack with ⟨-, hSTACK⟩ | ⟨-, -, hSTACK⟩ | ⟨-, -, -, k, hSTACK⟩
  · exact hSTACK ▸ h.stack_le
  · exact hSTACK ▸ h.stack_le
  · intro j
    rw [hSTACK, Fin.getElem_fin, Vector.getElem_set]
    split
    · bv_omega
    · exact h.stack_le j

theorem mem_wf_of_effect (h : s.Inv) (he : ExecEffect i s t) : t.M.wf := by
  rcases he.mem with hM | ⟨bs, hM, -⟩
  · exact hM ▸ h.mem_wf
  · exact hM ▸ Memory.writeBytes_wf h.mem_wf _ bs

/-- A sprite's pixels wrap into the grid (R101), so that drawing stays inside it. -/
theorem fb_wf_of_effect (h : s.Inv) (he : ExecEffect i s t) : t.FB.wf s.cfg.fbW s.cfg.fbH := by
  rcases he.display with ⟨hFB, -⟩ | ⟨-, ⟨-, hFB⟩ | ⟨x, y, n, -, hFB⟩⟩
  · exact hFB ▸ h.fb_wf
  · exact hFB ▸ Framebuffer.nil_wf ..
  · obtain ⟨hw, hh⟩ : 0 < s.cfg.fbW ∧ 0 < s.cfg.fbH := by simpa [Config.wf] using h.cfg_wf
    exact hFB ▸ Framebuffer.drawPixels_wf h.fb_wf _ (Framebuffer.sprite_inside hw hh _ _ _)

/-- The execute step of a running cycle keeps the invariant: a completed instruction leaves each part in its
form, and a fault leaves a record of R231. -/
theorem of_exec (h : s.Inv) (hrun : s.halted = false) (hstarted : s.started = true)
    (hpc : s.pc.toNat ≤ 0xFFE) (ht : exec i s = .next t) : t.Inv := by
  have heff := ExecEffect.of_exec ht
  obtain ⟨u, hu, hcases⟩ := exec_cases i s
  obtain rfl : u = t := Host.Outcome.next.inj (hu.symm.trans ht)
  rcases hcases with ⟨hhalted, hfault, -, -, hcfg, -⟩ | ⟨k, d, rfl⟩
  · have hnone : u.fault = none := hfault.trans (h.fault_none hrun)
    have hgo : u.halted = false := hhalted.trans hrun
    exact {
      mem_wf := h.mem_wf_of_effect heff
      fb_wf := hcfg ▸ h.fb_wf_of_effect heff
      cfg_wf := hcfg ▸ h.cfg_wf
      pc_le := h.nextPc_le hpc heff.pc
      stack_le := h.stack_le_of_effect hpc heff
      fault_iff := by simp [hnone, hgo]
      halted_started := by simp [hgo]
      halted_tone := by simp [hgo]
      fault_record := by simp [hnone] }
  · rcases heff.fault with hkeep | ⟨r, hr, -, hwf⟩
    · simp [h.fault_none hrun] at hkeep
    · obtain rfl := Option.some.inj hr
      exact h.faultStep hstarted (hwf hpc)

theorem of_step (h : s.Inv) (ht : step s = .next t) : t.Inv := by
  rcases step_cases s with ⟨-, he⟩ | ⟨-, hpc, he⟩ | ⟨-, hpc, hdec, he⟩ | ⟨i, hat, he⟩
  · obtain rfl := Host.Outcome.next.inj (he.symm.trans ht)
    exact h.beginCycle.idle.endCycle
  · obtain rfl := Host.Outcome.next.inj (he.symm.trans ht)
    exact (h.beginCycle.faultStep rfl (by simp [FaultRecord.wf, hpc])).endCycle
  · obtain rfl := Host.Outcome.next.inj (he.symm.trans ht)
    exact (h.beginCycle.faultStep rfl (by simp [FaultRecord.wf, hdec, hpc])).endCycle
  · obtain ⟨hrun, hpc, -⟩ := hat
    obtain ⟨u, hu, -⟩ := exec_cases i s.beginCycle
    rw [he, hu] at ht
    obtain rfl := Host.Outcome.next.inj ht
    exact (h.beginCycle.of_exec hrun rfl hpc hu).tickUnlessHalted.endCycle

theorem boot {c : Config} (hc : c.wf = true) : (State.boot c).Inv where
  mem_wf := Memory.reset_wf
  fb_wf := Framebuffer.nil_wf ..
  cfg_wf := hc
  pc_le := by simp [State.boot, State.reset]
  stack_le := by simp [State.boot, State.reset]
  fault_iff := rfl
  halted_started := nofun
  halted_tone := nofun
  fault_record := nofun

/-- `reset()` is the state after the reset of the core, but for the inputs to come. -/
theorem hostReset (h : s.Inv) : s.hostReset.Inv := { boot h.cfg_wf with }

theorem load (h : s.Inv) (bytes : List Byte) : (s.load bytes).Inv := by
  unfold State.load
  split
  · exact h.writeM (Memory.writeBytes_wf h.mem_wf _ bytes)
  · exact h

theorem cycleWith (h : s.Inv) (c : CycleInput) : (s.cycleWith c).Inv := by
  unfold State.cycleWith
  split
  · rename_i ht
    exact (h.supply c).of_step ht
  · rename_i r _
    exact nomatch r
  · exact h

theorem of_transact (h : s.Inv) (a : Transaction) : (transact s a).1.Inv := by
  cases a with
  | reset => exact h.hostReset
  | load bytes => exact h.load bytes
  | cycle keys rnd => exact h.cycleWith ⟨keys, rnd⟩
  | consumeFrame => exact h.consumeFrame
  | isHalted | lastFault | isDirty | soundTimerActive | readTimers => exact h

end State.Inv

/-- Settles O13: each of the four cases of a step is a chain of updates that keep the invariant. -/
theorem stepKeepsInv : Obligations.StepKeepsInv := fun _ _ => State.Inv.of_step

/-- Settles O14: the default configuration is one of the well-formed ones. -/
theorem resetMeetsInv : Obligations.ResetMeetsInv :=
  ⟨.boot (c := Config.default) (by decide), fun _ => .boot⟩

/-- Settles O15: the boot state meets the invariant, and every transaction keeps it. -/
theorem reachableStatesMeetInv : Obligations.ReachableStatesMeetInv := by
  intro s hs
  induction hs with
  | boot c hc => exact .boot hc
  | transact s a _ ih => exact ih.of_transact a

/-! ## The cycle around the execute step -/

theorem tickTimer_eq (b : Byte) : State.tickTimer b = BitVec.ofNat 8 (b.toNat - 1) :=
  BitVec.eq_of_toNat_eq (by rw [tickTimer_toNat, BitVec.toNat_ofNat]; omega)

/-- The tick, with the timers as numbers (R240, R241). -/
theorem tick_eq (s : State) : s.tick = { s with
    toneStop := decide (s.ST.toNat = 1)
    DT := BitVec.ofNat 8 (s.DT.toNat - 1)
    ST := BitVec.ofNat 8 (s.ST.toNat - 1) } := by
  simp only [State.tick, tickTimer_eq, ← BitVec.toNat_inj]
  rfl

theorem step_of_exec {s t : State} {i : Instr} (hat : s.AtInstr i) (ht : exec i s.beginCycle = .next t) :
    step s = .next t.tickUnlessHalted.endCycle := by
  rw [step_of_atInstr hat, ht, onNext_next, onNext_next]

/-- Settles O5: the end of the cycle is the tick, unless the execute step halted the engine. -/
theorem stepRunsDecodedInstruction : Obligations.StepRunsDecodedInstruction := by
  intro s i t hat ht
  refine ⟨fun hrun => ?_, fun hhalted => ?_⟩
  · rw [step_of_exec hat ht, tickUnlessHalted_running hrun, tick_eq]
    rfl
  · rw [step_of_exec hat ht, tickUnlessHalted_halted hhalted]
    rfl

/-- Settles O55: with no key pressed `FX0A` leaves the state to the tick. -/
theorem waitingCycleTicks : Obligations.WaitingCycleTicks := by
  intro x s hat hno
  have hlow : s.beginCycle.lowestKey = none := lowestKey_eq_none.2 hno
  have hwait : exec (.ldVxK x) s.beginCycle = .next s.beginCycle := by
    rcases waitKey_cases s.beginCycle x with ⟨-, h⟩ | ⟨k, hk, -⟩
    · exact congrArg Host.Outcome.next h
    · simp [hlow] at hk
  obtain ⟨hrun, -⟩ := id hat
  have hstep := step_of_exec hat hwait
  rw [tickUnlessHalted_running (s := s.beginCycle) hrun] at hstep
  refine ⟨_, hstep, ?_⟩
  exact ⟨rfl, rfl, hrun, tickTimer_toNat s.DT, tickTimer_toNat s.ST⟩

/-- Settles O8: the first case of `step_cases`. -/
theorem haltedCycleIsNoOp : Obligations.HaltedCycleIsNoOp := by
  intro s hhalted
  rcases step_cases s with ⟨-, he⟩ | ⟨hrun, -⟩ | ⟨hrun, -⟩ | ⟨i, ⟨hrun, -⟩, -⟩
  · exact ⟨_, he, rfl⟩
  all_goals simp [hhalted] at hrun

/-! ## Reset values and reads -/

/-- Settles O23: each field of the reset state, by its definition. -/
theorem resetValues : Obligations.ResetValues := by
  refine ⟨fun _ => rfl, fun r => ?_, rfl, rfl, rfl, fun k => ?_, rfl, rfl, rfl, rfl, rfl, fun _ _ => rfl, rfl⟩
  · simp [State.reset]
  · simp [State.reset]

theorem Framebuffer.grid_length (w h : Nat) (fb : Framebuffer) : (fb.grid w h).length = h := by
  simp [Framebuffer.grid]

theorem Framebuffer.length_of_mem_grid {w h : Nat} {fb : Framebuffer} {row : List Bool}
    (hrow : row ∈ fb.grid w h) : row.length = w := by
  obtain ⟨y, -, rfl⟩ := List.mem_map.1 hrow
  simp

theorem Framebuffer.grid_getElem? {w h y x : Nat} (fb : Framebuffer) (hy : y < h) (hx : x < w) :
    (fb.grid w h)[y]?.bind (·[x]?) = some (fb.pixel y x) := by
  simp [Framebuffer.grid, hy, hx]

/-- Settles O28: the snapshot is the grid of the framebuffer. -/
theorem readTransactions : Obligations.ReadTransactions := by
  intro s
  have hactive : s.soundTimerActive = (s.ST != 0#8) := by
    simp [State.soundTimerActive, bne, Bool.beq_eq_decide_eq]
  refine ⟨rfl, rfl, rfl, rfl, ?_, _, rfl, Framebuffer.grid_length .., fun _ => Framebuffer.length_of_mem_grid,
    fun _ _ => Framebuffer.grid_getElem? s.FB⟩
  rw [← hactive]
  rfl

end Sys2Proof.Machine

/-! Memory (20_memory.md): the fetch bound and the fetched word. -/

namespace Sys2Proof

/-- The high byte of a word comes first (R62). -/
theorem wordOfBytes_toNat_div (hi lo : Byte) : (wordOfBytes hi lo).toNat / 0x100 = hi.toNat := by
  rw [wordOfBytes_toNat]
  omega

theorem wordOfBytes_toNat_mod (hi lo : Byte) : (wordOfBytes hi lo).toNat % 0x100 = lo.toNat := by
  rw [wordOfBytes_toNat]
  omega

end Sys2Proof

namespace Sys2Proof.Machine

/-- The second case of `step_cases`, for a `pc` that is known to have no room for a word. -/
theorem step_of_fetchOutOfBounds {s : State} (hrun : s.halted = false) (hpc : 0xFFF ≤ s.pc.toNat) :
    step s = .next (s.beginCycle.faultStep .fetchOutOfBounds s.pc none none).endCycle := by
  rcases step_cases s with ⟨hhalted, -⟩ | ⟨-, -, he⟩ | ⟨-, hroom, -⟩ | ⟨i, ⟨-, hroom, -⟩, -⟩
  · simp [hrun] at hhalted
  · exact he
  all_goals omega

/-- Settles O6: beyond the bound a step is the fault step of the fetch, and below it the fetch answers the
two bytes at `pc`. -/
theorem fetchBound : Obligations.FetchBound := by
  intro s
  refine ⟨fun hrun hpc => ⟨_, step_of_fetchOutOfBounds hrun hpc, rfl⟩, fun hpc => ?_⟩
  have hfetch : s.fetch = some s.wordAtPc := fetch_eq_some.2 ⟨hpc, rfl⟩
  exact ⟨_, hfetch, wordOfBytes_toNat_div .., wordOfBytes_toNat_mod ..⟩

end Sys2Proof.Machine

/-! The encoding (30_encoding.md): the decoder and the encoder are inverse to each other, the unknown words,
and what a step does with a word that is no instruction. -/

namespace Sys2Proof

/-! ## A word is put together again from its fields (R81, R82) -/

theorem fieldF_lt (w : Word) : fieldF w < 16 := (w.extractLsb' 12 4).isLt

theorem wordNNN_fields {w : Word} {f : BitVec 4} (hF : fieldF w = f.toNat) : wordNNN f (fieldNNN w) = w := by
  apply BitVec.eq_of_toNat_eq
  rw [wordNNN_toNat, fieldNNN_toNat, ← hF, fieldF_eq]
  omega

theorem wordXNN_fields {w : Word} {f : BitVec 4} {nn : Byte} (hF : fieldF w = f.toNat) (hNN : fieldNN w = nn) :
    wordXNN f (fieldX w) nn = w := by
  apply BitVec.eq_of_toNat_eq
  rw [wordXNN_toNat, fieldX_val, ← hNN, fieldNN_toNat, ← hF, fieldF_eq]
  omega

theorem wordXYN_fields {w : Word} {f n : BitVec 4} (hF : fieldF w = f.toNat) (hN : (fieldN w).val = n.toNat) :
    wordXYN f (fieldX w) (fieldY w) n = w := by
  apply BitVec.eq_of_toNat_eq
  rw [wordXYN_toNat, fieldX_val, fieldY_val, ← hN, fieldN_val, ← hF, fieldF_eq]
  omega

/-! ## Decoding drops no bit: the branches of the decoder -/

/-- Family 8: the low nibble that selects the operation is the one its row fixes. -/
theorem encode_of_decode8 {w : Word} {i : Instr} (hF : fieldF w = 0x8) (h : decode8 w = some i) :
    encode i = w := by
  unfold decode8 at h
  split at h
  case h_10 => cases h
  all_goals
    rename_i hN
    cases h
    exact wordXYN_fields hF hN

/-- Family E: the low byte that selects the operation is the one its row fixes. -/
theorem encode_of_decodeE {w : Word} {i : Instr} (hF : fieldF w = 0xE) (h : decodeE w = some i) :
    encode i = w := by
  unfold decodeE at h
  split_ifs at h with hNN hNN
  all_goals
    cases h
    exact wordXNN_fields hF hNN

/-- Family F: the low byte that selects the operation is the one its row fixes. -/
theorem encode_of_decodeF {w : Word} {i : Instr} (hF : fieldF w = 0xF) (h : decodeF w = some i) :
    encode i = w := by
  unfold decodeF at h
  split_ifs at h with hNN hNN hNN hNN hNN hNN hNN hNN
  all_goals
    cases h
    exact wordXNN_fields hF hNN

/-- A word that decodes has the fixed bits of the row that it decodes to, so it is that row's word (R84).
Branch `h_k` of the decoder is family `k - 1`, and `h_17` is its last line. -/
theorem encode_of_decode {w : Word} {i : Instr} (h : decode w = some i) : encode i = w := by
  unfold decode at h
  split at h
  case h_1 =>
    split_ifs at h with hw hw
    all_goals
      cases h
      exact hw.symm
  case h_9 hF => exact encode_of_decode8 hF h
  case h_15 hF => exact encode_of_decodeE hF h
  case h_16 hF => exact encode_of_decodeF hF h
  case h_17 => cases h
  case h_6 hF | h_10 hF =>
    split_ifs at h with hN
    cases h
    exact wordXYN_fields hF (congrArg Fin.val hN)
  case h_2 hF | h_3 hF | h_11 hF | h_12 hF =>
    cases h
    exact wordNNN_fields hF
  case h_4 hF | h_5 hF | h_7 hF | h_8 hF | h_13 hF =>
    cases h
    exact wordXNN_fields hF rfl
  case h_14 hF =>
    cases h
    exact wordXYN_fields hF rfl

/-! ## The words that decode to nothing (R86) -/

theorem fieldN_eq_zero (w : Word) : fieldN w = 0 ↔ w.toNat % 0x10 = 0 := by
  rw [Fin.ext_iff, fieldN_val, Fin.val_zero]

theorem fieldNN_eq (w : Word) (nn : Byte) : fieldNN w = nn ↔ w.toNat % 0x100 = nn.toNat := by
  rw [← BitVec.toNat_inj, fieldNN_toNat]

theorem decode8_eq_none (w : Word) :
    decode8 w = none ↔ w.toNat % 0x10 ∈ [0x8, 0x9, 0xA, 0xB, 0xC, 0xD, 0xF] := by
  have hlt : w.toNat % 0x10 < 0x10 := Nat.mod_lt _ (by decide)
  unfold decode8
  rw [fieldN_val]
  interval_cases w.toNat % 0x10 <;> simp

theorem decodeE_eq_none (w : Word) : decodeE w = none ↔ w.toNat % 0x100 ∉ [0x9E, 0xA1] := by
  simp [decodeE, fieldNN_eq, ite_eq_iff]

theorem decodeF_eq_none (w : Word) :
    decodeF w = none ↔ w.toNat % 0x100 ∉ [0x07, 0x0A, 0x15, 0x18, 0x1E, 0x33, 0x55, 0x65] := by
  simp [decodeF, fieldNN_eq, ite_eq_iff]

/-- Settles O3: in each of the sixteen families, the branch of the decoder is the row of the table. -/
theorem unknownWordsAreTheTable : Obligations.UnknownWordsAreTheTable := by
  intro w
  have hlt := fieldF_lt w
  rw [← fieldF_eq]
  interval_cases hF : fieldF w
  · simp [decode, hF, ← BitVec.toNat_inj, ite_eq_iff]
  all_goals simp [decode, hF, fieldN_eq_zero, decode8_eq_none, decodeE_eq_none, decodeF_eq_none]

/-! ## Bytes and words -/

theorem decodeBytes_of_decode {w : Word} {i : Instr} (h : decode w = some i) (rest : List Byte) :
    decodeBytes (bytesOfWord w ++ rest) = .ok (i, rest) := by
  simp [bytesOfWord, decodeBytes, wordOfBytes_bytesOfWord, h]

/-- Settles O1: the two bytes of a word are the word again, and the word of an instruction decodes to it. -/
theorem decodeOfEncode : Obligations.DecodeOfEncode := fun i rest => decodeBytes_of_decode (decode_encode i) rest

/-- Settles O2, by the branches of the decoder. -/
theorem encodeOfDecode : Obligations.EncodeOfDecode := fun _ _ => encode_of_decode

/-- Settles O4: the seven words are the words of their instructions, and the last one is in the table. -/
theorem sampleWordsDecode : Obligations.SampleWordsDecode :=
  ⟨decode_encode .cls, decode_encode (.call 0x321#12), decode_encode (.ldImm 0 0x05#8),
    decode_encode (.addReg 1 2), decode_encode (.drw 1 14 5), decode_encode (.sknp 10),
    decode_encode (.storeRegs 11), (unknownWordsAreTheTable _).2 (by decide)⟩

end Sys2Proof

namespace Sys2Proof.Machine

/-! ## A step on any word -/

/-- Settles O7: the third case of `step_cases`, where the fourth has an instruction at `pc`. -/
theorem unknownWordHalts : Obligations.UnknownWordHalts := by
  intro s hrun hpc
  rcases step_cases s with ⟨hhalted, -⟩ | ⟨-, htop, -⟩ | ⟨-, -, -, hstep⟩ | ⟨i, ⟨-, -, hdec⟩, -⟩
  · simp [hrun] at hhalted
  · omega
  · exact .inr ⟨_, hstep, rfl⟩
  · exact .inl ⟨i, hdec⟩

/-- Settles O12: each case of `step_cases` answers a next state, the fourth because `exec` does. -/
theorem everyStepAnswersNext : Obligations.EveryStepAnswersNext := by
  intro s
  rcases step_cases s with ⟨-, hstep⟩ | ⟨-, -, hstep⟩ | ⟨-, -, -, hstep⟩ | ⟨i, hat, -⟩
  · exact ⟨_, hstep⟩
  · exact ⟨_, hstep⟩
  · exact ⟨_, hstep⟩
  · obtain ⟨t, ht, -⟩ := exec_cases i s.beginCycle
    exact ⟨_, step_of_exec hat ht⟩

end Sys2Proof.Machine

/-! The display (40_display.md): the clear, and the sprite draw as the loops of R102 and pixel by pixel. -/

namespace Sys2Proof.Machine

/-- Settles O31: the empty list of lit pixels is the blank display. -/
theorem clsClearsDisplay : Obligations.ClsClearsDisplay :=
  ⟨rfl, fun s => ⟨(s.writeFB []).advance, rfl, fun _ _ => rfl, rfl⟩⟩

/-! ## The cells of a sprite (R101) -/

/-- The cells `(r, c)` of a sprite of `n` rows, in the order of R102's loops. -/
def spriteCells (n : Nat) : List (Nat × Nat) := List.range n ×ˢ List.range 8

/-- The sprite bit of a cell: bit `7 - c` of row `r`. -/
def cellBit (row : Nat → Byte) (rc : Nat × Nat) : Bool := (row rc.1).getLsbD (7 - rc.2)

/-- The framebuffer pixel of a cell, wrapped at the edges. -/
def cellPixel (w h x0 y0 : Nat) (rc : Nat × Nat) : Nat × Nat := ((y0 + rc.1) % h, (x0 + rc.2) % w)

@[simp] theorem mem_spriteCells {n : Nat} {rc : Nat × Nat} : rc ∈ spriteCells n ↔ rc.1 < n ∧ rc.2 < 8 :=
  List.mem_product.trans (and_congr List.mem_range List.mem_range)

theorem spriteCells_nodup (n : Nat) : (spriteCells n).Nodup := List.nodup_range.product List.nodup_range

/-- The first row of cells, and then the cells of a sprite that starts one row lower. -/
theorem spriteCells_succ (n : Nat) : spriteCells (n + 1) =
    (List.range 8).map (fun c => (0, c)) ++ (spriteCells n).map (fun rc => (rc.1 + 1, rc.2)) := by
  simp [spriteCells, SProd.sprod, List.product, List.range_succ_eq_map, List.flatMap_map, List.map_flatMap]

/-- The pixels under a sprite are the pixels of its cells with a set bit, in the order of R102's loops. -/
theorem spritePixels_eq (w h x0 y0 n : Nat) (row : Nat → Byte) :
    spritePixels w h x0 y0 ((List.range n).map row) =
      ((spriteCells n).filter (cellBit row)).map (cellPixel w h x0 y0) := by
  induction n generalizing y0 row with
  | zero => rfl
  | succ n ih =>
    have hlower : cellPixel w h x0 y0 ∘ (fun rc => (rc.1 + 1, rc.2)) = cellPixel w h x0 (y0 + 1) := by
      funext rc
      simp [cellPixel, Nat.add_assoc, Nat.add_comm 1]
    rw [List.range_succ_eq_map, List.map_cons, List.map_map, spritePixels, ih, spriteCells_succ,
      List.filter_append, List.map_append, List.filter_map, List.filter_map, List.map_map, List.map_map,
      hlower]
    rfl

/-- On a framebuffer that a sprite fits into, no two cells share a pixel. -/
theorem cellPixel_injective {w h x0 y0 n : Nat} (hw : 8 ≤ w) (hh : n ≤ h) {p q : Nat × Nat}
    (hp : p ∈ spriteCells n) (hq : q ∈ spriteCells n)
    (he : cellPixel w h x0 y0 p = cellPixel w h x0 y0 q) : p = q := by
  obtain ⟨hp1, hp2⟩ := mem_spriteCells.1 hp
  obtain ⟨hq1, hq2⟩ := mem_spriteCells.1 hq
  obtain ⟨hrow, hcol⟩ := Prod.mk.inj he
  exact Prod.ext
    ((Nat.ModEq.add_left_cancel' y0 hrow).eq_of_lt_of_lt (by omega) (by omega))
    ((Nat.ModEq.add_left_cancel' x0 hcol).eq_of_lt_of_lt (by omega) (by omega))

/-- On such a framebuffer a sprite has each pixel at most once (R102's corner case on small framebuffers). -/
theorem sprite_nodup {s : State} (hw : 8 ≤ s.cfg.fbW) (hh : 15 ≤ s.cfg.fbH) (x y : Reg) (n : RowCount) :
    (s.sprite x y n).Nodup := by
  rw [State.sprite, State.spriteRows, Memory.readBytes, spritePixels_eq]
  refine List.Nodup.map_on (fun p hp q hq => ?_) ((spriteCells_nodup _).filter _)
  exact cellPixel_injective hw (by omega) (List.mem_filter.1 hp).1 (List.mem_filter.1 hq).1

theorem mem_sprite (s : State) (x y : Reg) (n : RowCount) (yy xx : Nat) :
    (yy, xx) ∈ s.sprite x y n ↔ Covers s x y n yy xx := by
  simp [State.sprite, State.spriteRows, Framebuffer.mem_spritePixels, Memory.readBytes, Covers]

/-! ## The loops of R102 on the framebuffer and on a plain grid -/

/-- The state of R102's loops, with the framebuffer read as a plain grid. -/
def asGrid (acc : Framebuffer × Bool) : Grid × Bool := (acc.1.pixel, acc.2)

/-- The body of R102's loops on the framebuffer: a turn of the cell's pixel when its bit is set. -/
def drawCell (w h x0 y0 : Nat) (row : Nat → Byte) (acc : Framebuffer × Bool) (rc : Nat × Nat) :
    Framebuffer × Bool :=
  if cellBit row rc then drawPixel acc (cellPixel w h x0 y0 rc) else acc

theorem pixelTurn_asGrid (w h x0 y0 : Nat) (row : Nat → Byte) (acc : Framebuffer × Bool) (rc : Nat × Nat) :
    pixelTurn w h x0 y0 row (asGrid acc) rc = asGrid (drawCell w h x0 y0 row acc rc) := by
  unfold pixelTurn drawCell
  by_cases hbit : cellBit row rc = true
  · rw [if_pos hbit]
    refine (if_pos hbit).trans (Prod.ext ?_ rfl)
    funext y x
    exact (Framebuffer.drawPixel_pixel acc _ _ y x).symm
  · rw [if_neg hbit]
    exact if_neg hbit

theorem drawPixels_spritePixels (w h x0 y0 n : Nat) (row : Nat → Byte) (fb : Framebuffer) :
    drawPixels fb (spritePixels w h x0 y0 ((List.range n).map row)) =
      (spriteCells n).foldl (drawCell w h x0 y0 row) (fb, false) := by
  rw [drawPixels, spritePixels_eq, List.foldl_map, List.foldl_filter]
  rfl

/-- Drawing a sprite does to the plain grid and the collision what R102's loops do, on any framebuffer. -/
theorem pixelLoop_eq (s : State) (x y : Reg) (n : RowCount) :
    pixelLoop s.cfg.fbW s.cfg.fbH s.V[x].toNat s.V[y].toNat n.val (fun r => s.M.read (s.I.toNat + r))
      s.FB.pixel = asGrid (drawPixels s.FB (s.sprite x y n)) := by
  rw [State.sprite, State.spriteRows, Memory.readBytes, drawPixels_spritePixels]
  exact List.foldl_hom asGrid (init := (s.FB, false)) (pixelTurn_asGrid _ _ _ _ _)

/-! ## The execute step of DRW -/

@[simp] theorem draw_FB (s : State) (x y : Reg) (n : RowCount) :
    (s.draw x y n).FB = (drawPixels s.FB (s.sprite x y n)).1 := rfl

@[simp] theorem draw_V (s : State) (x y : Reg) (n : RowCount) :
    (s.draw x y n).V = s.V.set flagReg (flagByte (drawPixels s.FB (s.sprite x y n)).2) := rfl

/-- DRW draws when every sprite byte is in memory (R102). -/
theorem exec_drw_of_inMemory {s : State} {n : RowCount} (x y : Reg)
    (hmem : n.val = 0 ∨ s.I.toNat + n.val - 1 ≤ 0xFFF) :
    exec (.drw x y n) s = .next (s.draw x y n).advance := by
  have htop : memSize = 0x1000 := rfl
  rcases withDataBound_cases (.drw x y n) s.I.toNat n.val s (s.draw x y n).advance with ⟨-, h⟩ | ⟨hout, -⟩
  · exact h
  · omega

/-- DRW with a sprite byte above 0xFFF is the fault step (R66, R102). -/
theorem exec_drw_of_outOfMemory {s : State} {n : RowCount} (x y : Reg) (hn : 1 ≤ n.val)
    (hmem : s.I.toNat + n.val - 1 > 0xFFF) :
    HaltsWith (.drw x y n) s .dataOutOfBounds (some (max s.I.toNat 0x1000)) := by
  have htop : memSize = 0x1000 := rfl
  rcases withDataBound_cases (.drw x y n) s.I.toNat n.val s (s.draw x y n).advance with ⟨hin, -⟩ | ⟨-, h⟩
  · omega
  · exact h

/-- Settles O32: the fault step beyond memory, and within it the draw, which is R102's loops by
`pixelLoop_eq`. -/
theorem drwIsThePixelLoop : Obligations.DrwIsThePixelLoop := by
  intro x y n s
  refine ⟨?_, exec_drw_of_outOfMemory x y, fun hmem => ⟨_, exec_drw_of_inMemory x y hmem, ?_⟩⟩
  · rw [encode, wordXYN_toNat, nibbleBits_toNat, BitVec.toNat_ofNat]
    omega
  · rw [pixelLoop_eq]
    exact ⟨fun _ _ => rfl, fun r => set_getElem s.V flagReg r _, rfl⟩

/-! ## The draw, pixel by pixel -/

section FittingFramebuffer

variable {s : State} (hw : 8 ≤ s.cfg.fbW) (hh : 15 ≤ s.cfg.fbH) (x y : Reg) (n : RowCount)
include hw hh

/-- A draw turns the pixels under the sprite, and no others. -/
theorem draw_pixel (yy xx : Nat) : (s.draw x y n).FB.pixel yy xx =
    (s.FB.pixel yy xx ^^ decide ((yy, xx) ∈ s.sprite x y n)) := by
  obtain ⟨hpixels, -⟩ := Framebuffer.drawPixels_distinct _ (sprite_nodup hw hh x y n) s.FB
  rw [Bool.eq_iff_iff, draw_FB, Framebuffer.pixel, decide_eq_true_iff, hpixels]
  by_cases hset : (yy, xx) ∈ s.FB <;> simp [Framebuffer.pixel, hset]

/-- A draw sets `VF` to 1 exactly when a covered pixel was set. -/
theorem draw_flag_eq_one_iff : (s.draw x y n).V[flagReg] = 1#8 ↔
    ∃ yy xx, s.FB.pixel yy xx = true ∧ Covers s x y n yy xx := by
  obtain ⟨-, hflag⟩ := Framebuffer.drawPixels_distinct _ (sprite_nodup hw hh x y n) s.FB
  rw [draw_V, set_getElem, if_pos rfl, flagByte_eq_one, hflag]
  simp [Framebuffer.pixel, mem_sprite, and_comm]

end FittingFramebuffer

/-- `VF` is a flag after a draw: it is 0 when it is not 1 (R23). -/
theorem draw_flag_eq_zero_iff (s : State) (x y : Reg) (n : RowCount) :
    (s.draw x y n).V[flagReg] = 0#8 ↔ ¬(s.draw x y n).V[flagReg] = 1#8 := by
  rw [draw_V, set_getElem, if_pos rfl, flagByte_eq_zero, flagByte_eq_one, Bool.not_eq_true]

/-- Settles O33, by the laws of a draw on a framebuffer that the sprite fits into. -/
theorem drwTurnsCoveredPixels : Obligations.DrwTurnsCoveredPixels := by
  intro x y n s hw hh hmem
  have hflag := draw_flag_eq_one_iff hw hh x y n
  refine ⟨_, exec_drw_of_inMemory x y hmem, fun yy xx => ?_, hflag.2, fun hnone => ?_⟩
  · rw [← mem_sprite, State.advance_FB, draw_pixel hw hh]
    cases s.FB.pixel yy xx <;> simp
  · refine (draw_flag_eq_zero_iff s x y n).2 fun hone => ?_
    obtain ⟨yy, xx, hset, hcovered⟩ := hflag.1 hone
    exact hnone yy xx hset hcovered

/-! ## Two draws at one place -/

/-- A draw leaves the sprite at its place when neither coordinate is the flag register. -/
theorem sprite_draw_advance (s : State) {x y : Reg} (hx : x ≠ 15) (hy : y ≠ 15) (n : RowCount) :
    (s.draw x y n).advance.sprite x y n = s.sprite x y n := by
  have hV : ∀ r : Reg, r ≠ 15 → (s.draw x y n).advance.V[r] = s.V[r] := fun r hr =>
    (set_getElem s.V flagReg r _).trans (if_neg hr)
  rw [State.sprite, hV x hx, hV y hy]
  rfl

/-- Settles O34: the second draw turns the same pixels back, and a covered pixel is set before it exactly
when it was 0 before the first. -/
theorem drwTwiceRestoresDisplay : Obligations.DrwTwiceRestoresDisplay := by
  intro x y n s hw hh hx hy hmem
  have hsame := sprite_draw_advance s hx hy n
  refine ⟨_, _, exec_drw_of_inMemory x y hmem, exec_drw_of_inMemory x y hmem, fun yy xx => ?_, ?_⟩
  · calc ((s.draw x y n).advance.draw x y n).FB.pixel yy xx
      _ = ((s.draw x y n).FB.pixel yy xx ^^ decide ((yy, xx) ∈ s.sprite x y n)) :=
        hsame ▸ draw_pixel (s := (s.draw x y n).advance) hw hh x y n yy xx
      _ = s.FB.pixel yy xx := by rw [draw_pixel hw hh, Bool.xor_assoc, Bool.xor_self, Bool.xor_false]
  · refine (draw_flag_eq_one_iff (s := (s.draw x y n).advance) hw hh x y n).trans ?_
    refine exists_congr fun yy => exists_congr fun xx => ?_
    rw [← mem_sprite, hsame, ← mem_sprite, State.advance_FB, draw_pixel hw hh]
    exact and_congr_left fun hcovered => by simp [hcovered]

end Sys2Proof.Machine

/-! Control flow (41_control_flow.md): calls and returns, the skips and the jumps. -/

namespace Sys2Proof.Machine

/-! ## RET (R120) -/

/-- RET on an empty stack is the fault step. -/
theorem exec_ret_of_empty {s : State} (hsp : s.SP.val = 0) : HaltsWith .ret s .stackUnderflow none :=
  dif_neg (by omega)

/-- RET pops the top entry into `pc` and leaves it in the stack. -/
theorem exec_ret_of_top {s : State} {k : Fin 16} (hsp : s.SP.val = k.val + 1) :
    exec .ret s = .next { s with SP := k.castSucc, pc := s.STACK[k] } := by
  have htop : s.SP.val - 1 = k.val := by omega
  calc exec .ret s
    _ = .next (s.popPc (by omega)) := dif_pos _
    _ = .next { s with SP := k.castSucc, pc := s.STACK[k] } := by
      simp only [State.popPc, htop]
      rfl

/-- Settles O35: the stack is empty or has a top entry. -/
theorem retPopsOrUnderflows : Obligations.RetPopsOrUnderflows :=
  ⟨rfl, fun _ => ⟨exec_ret_of_empty, fun _ => exec_ret_of_top⟩⟩

/-! ## CALL (R122) -/

/-- The state after CALL: the push and the jump, or the fault step on a full stack. -/
def State.afterCall (s : State) (nnn : Addr12) : State :=
  if hsp : s.SP.val < 16 then (s.push (s.pc + 2#16) hsp).goto (zext16 nnn)
  else s.faultStep .stackOverflow s.pc (some (encode (.call nnn))) none

theorem exec_call_eq (nnn : Addr12) (s : State) : exec (.call nnn) s = .next (s.afterCall nnn) :=
  (apply_dite Host.Outcome.next _ _ _).symm

theorem afterCall_of_lt {s : State} (nnn : Addr12) (hsp : s.SP.val < 16) :
    s.afterCall nnn = (s.push (s.pc + 2#16) hsp).goto (zext16 nnn) :=
  dif_pos hsp

theorem afterCall_of_full {s : State} (nnn : Addr12) (hsp : s.SP.val = 16) :
    s.afterCall nnn = s.faultStep .stackOverflow s.pc (some (encode (.call nnn))) none :=
  dif_neg (by omega)

/-- Settles O37: the stack is full, or `SP` names the entry that the push writes. -/
theorem callPushesOrOverflows : Obligations.CallPushesOrOverflows := by
  intro nnn s
  refine ⟨wordNNN_toNat _ _, fun hfull => ?_, fun k hk => ?_⟩
  · exact (exec_call_eq nnn s).trans (congrArg _ (afterCall_of_full nnn hfull))
  · rw [exec_call_eq, afterCall_of_lt nnn (by omega)]
    refine ⟨_, rfl, ?_, fun j hj => ?_, congrArg (· + 1) hk, zext16_toNat nnn, rfl⟩
    · simp [hk]
    · have hne : k.val ≠ j.val := fun h => hj (Fin.ext h.symm)
      simp [hk, hne]

/-- Settles O38: the return pops the entry that the call has pushed. -/
theorem retAfterCallReturns : Obligations.RetAfterCallReturns := by
  intro nnn s hsp
  have hcall := exec_call_eq nnn s
  rw [afterCall_of_lt nnn hsp] at hcall
  have hret := exec_ret_of_top (s := (s.push (s.pc + 2#16) hsp).goto (zext16 nnn))
    (k := ⟨s.SP.val, hsp⟩) rfl
  exact ⟨_, _, hcall, hret, by simp, rfl⟩

/-! ## Calls in a row (R30) -/

/-- The state after the first `k` of the calls to `a 0`, `a 1`, …. -/
def State.afterCalls (s : State) (a : Nat → Addr12) : Nat → State
  | 0 => s
  | k + 1 => (s.afterCalls a k).afterCall (a k)

theorem exec_call_afterCalls (s : State) (a : Nat → Addr12) (k : Nat) :
    exec (.call (a k)) (s.afterCalls a k) = .next (s.afterCalls a (k + 1)) :=
  exec_call_eq _ _

/-- Each call takes `SP` up by one until the stack is full. -/
theorem afterCalls_SP {s : State} (hsp : s.SP = 0) (a : Nat → Addr12) {k : Nat} (hk : k ≤ 16) :
    (s.afterCalls a k).SP.val = k := by
  induction k with
  | zero => exact congrArg Fin.val hsp
  | succ k ih =>
    have ih := ih (by omega)
    rw [State.afterCalls, afterCall_of_lt _ (by omega)]
    exact congrArg (· + 1) ih

/-- Settles O39: `SP` counts the calls by `afterCalls_SP`, so the seventeenth finds the stack full. -/
theorem seventeenthCallOverflows : Obligations.SeventeenthCallOverflows := by
  intro s a hsp
  let b : Nat → Addr12 := fun k => a (Fin.ofNat 17 k)
  have hb (k : Fin 16) : b k.val = a k.castSucc := congrArg a (Fin.ext (Nat.mod_eq_of_lt (by omega)))
  have hfull : (s.afterCalls b 16).SP.val = 16 := afterCalls_SP hsp b le_rfl
  refine ⟨s.afterCalls b, rfl, fun k => ⟨?_, afterCalls_SP hsp b (by omega)⟩,
    exec_call_afterCalls s b 16, ?_⟩
  · exact hb k ▸ exec_call_afterCalls s b k.val
  · rw [State.afterCalls, afterCall_of_full _ hfull]
    simp [hfull]

/-! ## The skips (R123 to R126) -/

/-- A skip on equal bytes compares all 8 bits. -/
theorem skipIf_eq (s : State) (a b : Byte) : s.skipIf (decide (a = b)) =
    { s with pc := if a.toNat = b.toNat then s.pc + 4#16 else s.pc + 2#16 } := by
  simp [State.skipIf, State.goto, BitVec.toNat_inj]

theorem skipIf_ne (s : State) (a b : Byte) : s.skipIf (decide (a ≠ b)) =
    { s with pc := if a.toNat = b.toNat then s.pc + 2#16 else s.pc + 4#16 } := by
  simp [State.skipIf, State.goto, BitVec.toNat_inj, ite_not]

/-- Settles O40: `3XNN` and `4XNN` are the two skips, on `V[X]` and the immediate. -/
theorem skipImmediate : Obligations.SkipImmediate := by
  intro x nn s
  refine ⟨?_, ?_, congrArg _ (skipIf_eq s s.V[x] nn), congrArg _ (skipIf_ne s s.V[x] nn)⟩
  all_goals
    rw [encode, wordXNN_toNat, BitVec.toNat_ofNat]
    omega

/-- Settles O41: `5XY0` and `9XY0` are the two skips, on `V[X]` and `V[Y]`. -/
theorem skipRegister : Obligations.SkipRegister := by
  intro x y s
  refine ⟨?_, ?_, congrArg _ (skipIf_eq s s.V[x] s.V[y]), congrArg _ (skipIf_ne s s.V[x] s.V[y])⟩
  all_goals
    rw [encode, wordXYN_toNat, BitVec.toNat_ofNat, BitVec.toNat_ofNat]
    omega

/-! ## The jumps (R121, R127) -/

/-- Settles O36: the 12 bits of the address are zero-extended. -/
theorem jpSetsPc : Obligations.JpSetsPc :=
  fun nnn s => ⟨wordNNN_toNat _ _, s.goto (zext16 nnn), rfl, zext16_toNat nnn, rfl⟩

/-- The offset of BNNN, with the register of `JUMP_OFFSET_USES_VX` given as a number. -/
theorem jumpOffset_toNat {nnn : Addr12} {x : Reg} (s : State) (hx : x.val = nnn.toNat / 0x100) :
    (s.jumpOffset nnn).toNat = if s.cfg.jumpOffsetUsesVx then s.V[x].toNat else s.V[(0 : Reg)].toNat := by
  obtain rfl : addrX nnn = x := Fin.ext ((addrX_val nnn).trans hx.symm)
  exact apply_ite BitVec.toNat _ _ _

/-- Settles O42: a 12-bit address plus a byte stays below 2 ^ 16, so the sum is whole. -/
theorem jumpWithOffset : Obligations.JumpWithOffset := by
  intro nnn x s hx
  refine ⟨wordNNN_toNat _ _, s.goto (BitVec.ofNat 16 (nnn.toNat + (s.jumpOffset nnn).toNat)), rfl, rfl, ?_⟩
  rw [← jumpOffset_toNat s hx, State.goto_pc, BitVec.toNat_ofNat]
  omega

end Sys2Proof.Machine

/-! Registers and the ALU (42_alu.md): the loads, the arithmetic with its flags, the index register and the
random byte. -/

namespace Sys2Proof.Machine

/-! ## The words of the formats, with the operands in the order of the claims (R82) -/

theorem wordXNN_toNat_mul_comm (f : BitVec 4) (x : Reg) (nn : Byte) :
    (wordXNN f x nn).toNat = f.toNat * 0x1000 + 0x100 * x.val + nn.toNat := by
  rw [wordXNN_toNat, Nat.mul_comm x.val]

theorem wordXYN_eight_toNat (x y : Reg) (n : BitVec 4) :
    (wordXYN 0x8#4 x y n).toNat = 0x8000 + n.toNat + 0x100 * x.val + 0x10 * y.val := by
  rw [wordXYN_toNat, BitVec.toNat_ofNat]
  omega

/-! ## The writes of a result (R24) -/

section Writes

variable {i : Instr} {s : State} {x : Reg} {b : Byte}

theorem writesReg_of_writeV (h : exec i s = .next (s.writeV x b).advance) : WritesReg i s x b :=
  ⟨_, h, fun r => set_getElem s.V x r b, rfl⟩

/-- The flag is written last, so it stays when the result's register is `VF`. -/
theorem writesRegFlag_of_writeV_writeV {f : Byte}
    (h : exec i s = .next ((s.writeV x b).writeV flagReg f).advance) : WritesRegFlag i s x b f := by
  refine ⟨_, h, fun r => ?_, rfl⟩
  rw [State.advance_V, State.writeV_V, State.writeV_V, set_getElem, set_getElem]

theorem writesReg_of_writeLogic (h : exec i s = .next (s.writeLogic x b).advance)
    (hkeep : s.cfg.logicClearsVf = false) : WritesReg i s x b :=
  writesReg_of_writeV (by simpa [State.writeLogic, hkeep] using h)

theorem writesRegFlag_of_writeLogic (h : exec i s = .next (s.writeLogic x b).advance)
    (hclear : s.cfg.logicClearsVf = true) : WritesRegFlag i s x b 0#8 :=
  writesRegFlag_of_writeV_writeV (by simpa [State.writeLogic, hclear] using h)

end Writes

/-! ## The results and the flags as the words of the claims (R150) -/

theorem sum8_eq (a b : Byte) : sum8 a b = BitVec.ofNat 8 ((a.toNat + b.toNat) % 256) :=
  BitVec.eq_of_toNat_eq (by simp [sum8_toNat])

theorem diff8_eq (a b : Byte) : diff8 a b = BitVec.ofNat 8 (a.toNat + 256 - b.toNat) :=
  BitVec.eq_of_toNat_eq (by simp [diff8_toNat])

theorem shiftRight1_eq (b : Byte) : shiftRight1 b = b >>> 1 :=
  BitVec.eq_of_toNat_eq (by simp [shiftRight1_toNat, Nat.shiftRight_eq_div_pow])

theorem shiftLeft1_eq (b : Byte) : shiftLeft1 b = b <<< 1 :=
  BitVec.eq_of_toNat_eq (by simp [shiftLeft1_toNat, Nat.shiftLeft_eq])

theorem outRight_eq (b : Byte) : flagByte (outRight b) = BitVec.ofNat 8 (b.toNat % 2) := by
  rw [← outRight_toNat, BitVec.ofNat_toNat, BitVec.setWidth_eq]

theorem outLeft_eq (b : Byte) : flagByte (outLeft b) = BitVec.ofNat 8 (b.toNat / 128) := by
  rw [← outLeft_toNat, BitVec.ofNat_toNat, BitVec.setWidth_eq]

theorem carry_eq (a b : Byte) : flagByte (carry a b) = if a.toNat + b.toNat > 255 then 1#8 else 0#8 :=
  flagByte_decide _

theorem noBorrow_eq (a b : Byte) : flagByte (noBorrow a b) = if a.toNat ≥ b.toNat then 1#8 else 0#8 :=
  flagByte_decide _

/-! ## Loads, sums and differences -/

/-- Settles O43: both loads are the write of one register. -/
theorem loadRegister : Obligations.LoadRegister := by
  intro x y nn s
  exact ⟨wordXNN_toNat_mul_comm 0x6#4 x nn, wordXYN_eight_toNat x y 0#4,
    writesReg_of_writeV rfl, writesReg_of_writeV rfl⟩

/-- Settles O44: the sum is written as `sum8_eq` has it, and no flag. -/
theorem addImmediate : Obligations.AddImmediate := by
  intro x nn s
  refine ⟨wordXNN_toNat_mul_comm 0x7#4 x nn, ?_⟩
  rw [← sum8_eq]
  exact writesReg_of_writeV rfl

/-- Settles O45: the three operations share `writeLogic`, which ends with `VF` when `LOGIC_CLEARS_VF`. -/
theorem logicOperations : Obligations.LogicOperations := by
  intro x y s
  refine ⟨wordXYN_eight_toNat x y 1#4, wordXYN_eight_toNat x y 2#4, wordXYN_eight_toNat x y 3#4, ?_, ?_⟩
  · intro hkeep
    exact ⟨writesReg_of_writeLogic rfl hkeep, writesReg_of_writeLogic rfl hkeep,
      writesReg_of_writeLogic rfl hkeep⟩
  · intro hclear
    exact ⟨writesRegFlag_of_writeLogic rfl hclear, writesRegFlag_of_writeLogic rfl hclear,
      writesRegFlag_of_writeLogic rfl hclear⟩

/-- Settles O46: the carry is read off the operands as they were before the sum is written. -/
theorem addWithCarry : Obligations.AddWithCarry := by
  intro x y s
  refine ⟨wordXYN_eight_toNat x y 4#4, ?_⟩
  rw [← sum8_eq, ← carry_eq]
  exact writesRegFlag_of_writeV_writeV rfl

/-- Settles O47: the two subtractions differ only in which operand is the minuend. -/
theorem subtractWithBorrow : Obligations.SubtractWithBorrow := by
  intro x y s
  refine ⟨wordXYN_eight_toNat x y 5#4, wordXYN_eight_toNat x y 7#4, ?_, ?_⟩
  all_goals
    rw [← diff8_eq, ← noBorrow_eq]
    exact writesRegFlag_of_writeV_writeV rfl

/-- Settles O48: both shifts read `shiftSource`, whichever register the configuration makes it. -/
theorem shifts : Obligations.Shifts := by
  intro x y s b hb
  obtain rfl : b = s.shiftSource x y := hb
  refine ⟨wordXYN_eight_toNat x y 6#4, wordXYN_eight_toNat x y 0xE#4, ?_, ?_⟩
  · rw [← shiftRight1_eq, ← outRight_eq]
    exact writesRegFlag_of_writeV_writeV rfl
  · rw [← shiftLeft1_eq, ← outLeft_eq]
    exact writesRegFlag_of_writeV_writeV rfl

/-! ## The index register and the random byte -/

/-- Settles O49: `I` takes the zero-extended address, or the sum at the 16 bits of the register. -/
theorem indexRegister : Obligations.IndexRegister := by
  intro nnn x s
  refine ⟨wordNNN_toNat _ _, ?_, ⟨_, rfl, zext16_toNat nnn, rfl⟩, ⟨_, rfl, BitVec.toNat_ofNat _ _, rfl⟩⟩
  rw [encode, wordXNN_toNat, BitVec.toNat_ofNat, BitVec.toNat_ofNat]
  omega

/-- Settles O50: the random byte is the one of the cycle's input, free or supplied. -/
theorem randomByteMasked : Obligations.RandomByteMasked := by
  intro x nn s
  exact ⟨wordXNN_toNat_mul_comm 0xC#4 x nn, writesReg_of_writeV rfl, fun _ => writesReg_of_writeV rfl⟩

end Sys2Proof.Machine

/-! Keys, timers and memory transfers (43_keys_timers_memory.md): the timer copies and their tick, the key
instructions, the decimal digits and the block transfers. -/

namespace Sys2Proof.Machine

/-- The word of an `EXNN` or `FXNN` row as the claims write it: the fixed bits of the row, then the register. -/
theorem wordXNN_toNat_fixed_add (f : BitVec 4) (x : Reg) (nn : Byte) :
    (wordXNN f x nn).toNat = f.toNat * 0x1000 + nn.toNat + 0x100 * x.val := by
  rw [wordXNN_toNat_mul_comm, Nat.add_right_comm]

/-! ## The timers (R193 to R195) -/

/-- Settles O52: each copy is the update of one register. -/
theorem timerCopies : Obligations.TimerCopies := by
  intro x s
  exact ⟨wordXNN_toNat_fixed_add 0xF#4 x 0x07#8, wordXNN_toNat_fixed_add 0xF#4 x 0x15#8,
    wordXNN_toNat_fixed_add 0xF#4 x 0x18#8, writesReg_of_writeV rfl, rfl, rfl⟩

/-- A cycle ends with the tick of the state that its instruction leaves, if the instruction raises no fault. -/
theorem step_of_exec_keeps_halted {s t : State} {i : Instr} (hat : s.AtInstr i)
    (ht : exec i s.beginCycle = .next t) (hkeep : t.halted = s.halted) : step s = .next t.tick.endCycle := by
  obtain ⟨hrun, -⟩ := id hat
  rw [step_of_exec hat ht, tickUnlessHalted_running (hkeep.trans hrun)]

/-- The tick outputs `tone_stop` exactly when it takes `ST` from 1 to 0 (R241). -/
theorem tick_toneStop_eq_true (s : State) : s.tick.toneStop = true ↔ s.ST.toNat = 1 := by
  rw [tick_eq, decide_eq_true_iff]

/-- Settles O53: the tick comes after the execute step, so it takes the timer as just written. -/
theorem writtenTimerTicksInSameCycle : Obligations.WrittenTimerTicksInSameCycle := by
  intro x s
  refine ⟨fun hat => ?_, fun hat => ?_⟩
  · exact ⟨_, step_of_exec_keeps_halted hat rfl rfl,
      tickTimer_toNat s.V[x], tickTimer_toNat s.ST, rfl, rfl⟩
  · exact ⟨_, step_of_exec_keeps_halted hat rfl rfl, tickTimer_toNat s.V[x], tickTimer_toNat s.DT,
      tick_toneStop_eq_true (s.beginCycle.writeST s.V[x]).advance, rfl, rfl⟩

/-! ## The keys (R190 to R192, R196) -/

/-- A key test on a key above 15 is the fault step (R190). -/
theorem haltsWith_of_skipOnKey {i : Instr} {x : Reg} {want : Bool} {s : State}
    (hi : exec i s = skipOnKey i x want s) (hx : s.V[x].toNat ≥ 16) :
    HaltsWith i s .keyOutOfRange (some s.V[x].toNat) := by
  rcases skipOnKey_cases i x want s with ⟨-, h⟩ | ⟨hlt, -⟩
  · exact hi.trans h
  · omega

theorem skipIf_beq_true (s : State) (c : Bool) :
    s.skipIf (c == true) = { s with pc := if c then s.pc + 4#16 else s.pc + 2#16 } := by
  cases c <;> rfl

theorem skipIf_beq_false (s : State) (c : Bool) :
    s.skipIf (c == false) = { s with pc := if c then s.pc + 2#16 else s.pc + 4#16 } := by
  cases c <;> rfl

/-- Settles O51: the two key tests differ only in the state of the key on which they skip. -/
theorem keySkips : Obligations.KeySkips := by
  intro x s
  refine ⟨wordXNN_toNat_fixed_add 0xE#4 x 0x9E#8, wordXNN_toNat_fixed_add 0xE#4 x 0xA1#8,
    fun hx => ⟨haltsWith_of_skipOnKey rfl hx, haltsWith_of_skipOnKey rfl hx⟩, fun hx => ⟨?_, ?_⟩⟩
  · exact (skipOnKey_of_lt hx).trans (congrArg _ (skipIf_beq_true s _))
  · exact (skipOnKey_of_lt hx).trans (congrArg _ (skipIf_beq_false s _))

theorem waitKey_of_no_key {s : State} (x : Reg) (hlow : s.lowestKey = none) : s.waitKey x = s := by
  rcases waitKey_cases s x with ⟨-, h⟩ | ⟨k, hk, -⟩
  · exact h
  · simp [hlow] at hk

theorem waitKey_of_lowestKey {s : State} (x : Reg) {k : Nat} (hlow : s.lowestKey = some k) :
    s.waitKey x = (s.writeV x (BitVec.ofNat 8 k)).advance := by
  rcases waitKey_cases s x with ⟨hnone, -⟩ | ⟨j, hj, h⟩
  · simp [hlow] at hnone
  · rwa [Option.some.inj (hlow.symm.trans hj)]

/-- Settles O54: the wait ends with the key that `lowestKey` finds. -/
theorem keyWait : Obligations.KeyWait := by
  intro x s
  refine ⟨wordXNN_toNat_fixed_add 0xF#4 x 0x0A#8, fun hno => ?_, fun k hk hset hleast => ?_⟩
  · exact congrArg Host.Outcome.next (waitKey_of_no_key x (lowestKey_eq_none.2 hno))
  · have hlow : s.lowestKey = some k := lowestKey_eq_some.2 ⟨hk, hset, hleast⟩
    exact writesReg_of_writeV (congrArg Host.Outcome.next (waitKey_of_lowestKey x hlow))

/-! ## The stores and the loads at `I`, whose last address is `base + n` (R66) -/

section DataBound

variable {i : Instr} {base n : Nat} {s t : State}

theorem withDataBound_of_inMemory (h : base + n ≤ 0xFFF) : withDataBound i base (n + 1) s t = .next t := by
  have htop : memSize = 0x1000 := rfl
  rcases withDataBound_cases i base (n + 1) s t with ⟨-, he⟩ | ⟨hout, -⟩
  · exact he
  · omega

theorem haltsWith_of_withDataBound (hi : exec i s = withDataBound i base (n + 1) s t)
    (h : base + n > 0xFFF) : HaltsWith i s .dataOutOfBounds (some (max base 0x1000)) := by
  have htop : memSize = 0x1000 := rfl
  rcases withDataBound_cases i base (n + 1) s t with ⟨hin, -⟩ | ⟨-, he⟩
  · omega
  · exact hi.trans he

end DataBound

theorem Memory.read_writeBytes_of_getElem? {bs : List Byte} (m : Memory) {a k : Nat} {b : Byte}
    (hroom : a + bs.length ≤ memSize) (hb : bs[k]? = some b) : (m.writeBytes a bs).read (a + k) = b := by
  obtain ⟨hk, rfl⟩ := List.getElem?_eq_some_iff.1 hb
  exact read_writeBytes_inside bs m hk hroom

/-! ## The decimal digits (R197) -/

theorem bcdDigits_map_toNat (v : Byte) :
    (bcdDigits v).map BitVec.toNat = [v.toNat / 100, v.toNat / 10 % 10, v.toNat % 10] := by
  simp only [bcdDigits, List.map_cons, List.map_nil, BitVec.toNat_ofNat, List.cons.injEq, and_true]
  omega

theorem read_writeBytes_bcdDigits {v : Byte} (m : Memory) {a k d : Nat} (hroom : a + 2 ≤ 0xFFF)
    (hd : [v.toNat / 100, v.toNat / 10 % 10, v.toNat % 10][k]? = some d) :
    ((m.writeBytes a (bcdDigits v)).read (a + k)).toNat = d := by
  rw [← bcdDigits_map_toNat, List.getElem?_map, Option.map_eq_some_iff] at hd
  obtain ⟨b, hb, rfl⟩ := hd
  rw [Memory.read_writeBytes_of_getElem? m (Nat.succ_le_succ hroom) hb]

/-- Settles O56: the three digits are stored from `I` up. -/
theorem bcdStoresDigits : Obligations.BcdStoresDigits := by
  intro x s
  refine ⟨wordXNN_toNat_fixed_add 0xF#4 x 0x33#8, haltsWith_of_withDataBound rfl, fun hmem =>
    ⟨_, withDataBound_of_inMemory hmem, ?_, ?_, ?_, fun a ha => ?_, rfl⟩⟩
  · exact read_writeBytes_bcdDigits s.M (k := 0) hmem rfl
  · exact read_writeBytes_bcdDigits s.M (k := 1) hmem rfl
  · exact read_writeBytes_bcdDigits s.M (k := 2) hmem rfl
  · exact Memory.read_writeBytes_outside (bcdDigits s.V[x]) s.M ha

/-! ## The block transfers (R198, R199) -/

/-- Settles O57: the registers are stored from `I` up. -/
theorem blockStore : Obligations.BlockStore := by
  intro x s
  refine ⟨wordXNN_toNat_fixed_add 0xF#4 x 0x55#8, haltsWith_of_withDataBound rfl, fun hmem =>
    ⟨_, withDataBound_of_inMemory hmem, fun k hk => ?_, fun a ha => ?_, afterTransfer_toNat s x hmem, rfl⟩⟩
  · have hroom : s.I.toNat + (blockBytes s.V x).length ≤ memSize := by
      rw [blockBytes_length]
      exact Nat.succ_le_succ hmem
    exact Memory.read_writeBytes_of_getElem? s.M hroom (blockBytes_getElem? s.V x k hk)
  · exact Memory.read_writeBytes_outside (blockBytes s.V x) s.M (by rw [blockBytes_length]; omega)

/-- Settles O58: `loadV_getElem` gives every register after the load. -/
theorem blockLoad : Obligations.BlockLoad := by
  intro x s
  exact ⟨wordXNN_toNat_fixed_add 0xF#4 x 0x65#8, haltsWith_of_withDataBound rfl, fun hmem =>
    ⟨_, withDataBound_of_inMemory hmem, loadV_getElem s x, afterTransfer_toNat s x hmem, rfl⟩⟩

end Sys2Proof.Machine

/-! Exceptions (60_exceptions.md): what a cycle does besides running an instruction, the table of faults, and
the halted engine. -/

namespace Sys2Proof.Machine

/-! ## A step runs an instruction, idles or faults -/

/-- What a step can do: the execute step of the instruction at `pc` and the tick, the idle cycle of a halted
engine (R55), or the fault step (R233). -/
theorem step_executes_idles_or_faults {s t : State} (h : step s = .next t) :
    (∃ i u, s.AtInstr i ∧ exec i s.beginCycle = .next u ∧ u.halted = false ∧ t = u.tick.endCycle) ∨
    (s.halted = true ∧ t = s.beginCycle.idle.endCycle) ∨
    ∃ k w d, t = (s.beginCycle.faultStep k s.pc w d).endCycle := by
  rcases step_cases s with ⟨hhalted, he⟩ | ⟨-, -, he⟩ | ⟨-, -, -, he⟩ | ⟨i, hat, -⟩
  · exact .inr (.inl ⟨hhalted, Host.Outcome.next.inj (h.symm.trans he)⟩)
  · exact .inr (.inr ⟨_, _, _, Host.Outcome.next.inj (h.symm.trans he)⟩)
  · exact .inr (.inr ⟨_, _, _, Host.Outcome.next.inj (h.symm.trans he)⟩)
  · obtain ⟨hrun, -⟩ := id hat
    obtain ⟨u, hu, hcases⟩ := exec_cases i s.beginCycle
    have ht : t = u.tickUnlessHalted.endCycle :=
      Host.Outcome.next.inj (h.symm.trans (step_of_exec hat hu))
    rcases hcases with ⟨hkeep, -⟩ | ⟨k, d, rfl⟩
    · have hgo : u.halted = false := hkeep.trans hrun
      rw [tickUnlessHalted_running hgo] at ht
      exact .inl ⟨i, u, hat, hu, hgo, ht⟩
    · exact .inr (.inr ⟨_, _, _, ht⟩)

/-- Settles O9: only a cycle that runs its instruction ticks; the idle cycle and the fault step keep the timers. -/
theorem timersTickOncePerExecutedCycle : Obligations.TimersTickOncePerExecutedCycle := by
  intro s t h
  rcases step_executes_idles_or_faults h with ⟨i, u, hat, hu, hgo, rfl⟩ | ⟨hhalted, rfl⟩ | ⟨k, w, d, rfl⟩
  · refine ⟨fun hstop => ?_, fun _ => ?_⟩
    · simp [hgo] at hstop
    · exact ⟨i, u, hat, hu, tickTimer_toNat u.DT, tickTimer_toNat u.ST, tick_toneStop_eq_true u⟩
  · exact ⟨fun _ => ⟨rfl, rfl, rfl⟩, fun hrun => by simp [hhalted] at hrun⟩
  · exact ⟨fun _ => ⟨rfl, rfl, rfl⟩, fun hrun => by simp at hrun⟩

/-- Settles O10: of the three, only the fault step halts a running engine. -/
theorem faultsArePrecise : Obligations.FaultsArePrecise := by
  intro s t hrun h hstop
  rcases step_executes_idles_or_faults h with ⟨i, u, -, -, hgo, rfl⟩ | ⟨hhalted, -⟩ | ⟨k, w, d, rfl⟩
  · simp [hgo] at hstop
  · simp [hrun] at hhalted
  · exact ⟨_, rfl⟩

/-! ## The table of faults (R231, R235) -/

/-- The outcome `o` is what the table's answer `f` says: a halted state with the record `f` on it, or a
running state when `f` is none. -/
def Reports (o : Host.Outcome State Fault Refusal) (f : Option FaultRecord) : Prop :=
  ∃ t, o = .next t ∧ t.halted = f.isSome ∧ ∀ r, f = some r → t.fault = some r

namespace Reports

variable {o : Host.Outcome State Fault Refusal} {f : Option FaultRecord} {r : FaultRecord} {s t : State}

theorem of_running (ho : o = .next t) (hrun : t.halted = false) : Reports o none :=
  ⟨t, ho, hrun, nofun⟩

theorem of_halted (ho : o = .next t) (hstop : t.halted = true) (hr : t.fault = some r) : Reports o (some r) :=
  ⟨t, ho, hstop, fun _ h => h ▸ hr⟩

theorem of_haltsWith {i : Instr} {k : FaultKind} {d : Option Nat} (h : HaltsWith i s k d) :
    Reports (exec i s) (some ⟨k, s.pc, some (encode i), d⟩) :=
  of_halted h rfl rfl

/-- A row of the table: the outcome reports its record when its condition holds, and runs otherwise. -/
theorem ite {c : Prop} [Decidable c] (hfault : c → Reports o (some r)) (hrun : ¬c → Reports o none) :
    Reports o (if c then some r else none) := by
  split
  · exact hfault ‹_›
  · exact hrun ‹_›

theorem onNext {g : State → State} (hhalted : ∀ t, (g t).halted = t.halted)
    (hfault : ∀ t, (g t).fault = t.fault) (h : Reports o f) : Reports (onNext g o) f := by
  obtain ⟨t, rfl, hstop, hr⟩ := h
  exact ⟨g t, rfl, (hhalted t).trans hstop, fun r hf => (hfault t).trans (hr r hf)⟩

end Reports

@[simp] theorem halted_tickUnlessHalted (s : State) : s.tickUnlessHalted.halted = s.halted := by
  unfold State.tickUnlessHalted
  split <;> rfl

@[simp] theorem fault_tickUnlessHalted (s : State) : s.tickUnlessHalted.fault = s.fault := by
  unfold State.tickUnlessHalted
  split <;> rfl

@[simp] theorem writeLogic_halted (s : State) (x : Reg) (b : Byte) :
    (s.writeLogic x b).halted = s.halted := by
  unfold State.writeLogic
  split <;> rfl

@[simp] theorem waitKey_halted (s : State) (x : Reg) : (s.waitKey x).halted = s.halted := by
  rcases waitKey_cases s x with ⟨-, h⟩ | ⟨k, -, h⟩
  · rw [h]
  · rw [h]
    rfl

/-- The execute step of the instruction at `pc` reports the fault that the table names: the row of the
instruction has its own condition, and the word on the record is the word at `pc`. -/
theorem reports_exec {s : State} {i : Instr} (hat : s.AtInstr i) : Reports (exec i s) (faultOf s) := by
  obtain ⟨hrun, hpc, hdec⟩ := hat
  unfold faultOf
  rw [if_neg (by omega), hdec, ← encode_of_decode hdec]
  cases i
  case call nnn =>
    refine .ite (fun hfull => .of_haltsWith ?_) (fun hroom => ?_)
    · exact (exec_call_eq nnn s).trans (congrArg _ (afterCall_of_full nnn hfull))
    · refine .of_running (exec_call_eq nnn s) ?_
      rw [afterCall_of_lt nnn (by omega)]
      exact hrun
  case ret =>
    exact .ite (fun hempty => .of_haltsWith (exec_ret_of_empty hempty))
      (fun htop => .of_running (dif_pos (Nat.pos_of_ne_zero htop)) hrun)
  case drw x y n =>
    refine .ite (fun ⟨hn, hout⟩ => .of_haltsWith (exec_drw_of_outOfMemory x y hn hout)) (fun hin => ?_)
    exact .of_running (exec_drw_of_inMemory x y (by omega)) hrun
  case bcd | storeRegs | loadRegs =>
    exact .ite (fun hout => .of_haltsWith (haltsWith_of_withDataBound rfl hout))
      (fun hin => .of_running (withDataBound_of_inMemory (Nat.le_of_not_gt hin)) hrun)
  case skp | sknp =>
    exact .ite (fun hno => .of_haltsWith (haltsWith_of_skipOnKey rfl hno))
      (fun hkey => .of_running (skipOnKey_of_lt (Nat.lt_of_not_ge hkey)) hrun)
  case orReg | andReg | xorReg => exact .of_running rfl ((writeLogic_halted ..).trans hrun)
  case ldVxK => exact .of_running rfl ((waitKey_halted ..).trans hrun)
  all_goals exact .of_running rfl hrun

theorem reports_step {s : State} (hrun : s.halted = false) : Reports (step s) (faultOf s) := by
  rcases step_cases s with ⟨hhalted, -⟩ | ⟨-, hpc, he⟩ | ⟨-, hpc, hdec, he⟩ | ⟨i, hat, he⟩
  · simp [hrun] at hhalted
  · have hrow : faultOf s = some ⟨.fetchOutOfBounds, s.pc, none, none⟩ := if_pos (by omega)
    exact hrow ▸ .of_halted he rfl rfl
  · have hrow : faultOf s = some ⟨.unknownOpcode, s.pc, some s.wordAtPc, none⟩ := by
      unfold faultOf
      rw [if_neg (by omega), hdec]
    exact hrow ▸ .of_halted he rfl rfl
  · have hexec : Reports (exec i s.beginCycle) (faultOf s) := reports_exec (s := s.beginCycle) hat
    rw [he]
    exact (hexec.onNext halted_tickUnlessHalted fault_tickUnlessHalted).onNext
      State.endCycle_halted State.endCycle_fault

/-- Settles O11: the fetch bound, the decoder and each instruction's own condition are the table's rows. -/
theorem faultsAreTheTable : Obligations.FaultsAreTheTable := ⟨fun _ => reports_step, rfl⟩

/-! ## The halted engine (R234) -/

/-- `t` is `s` but for `dirty` and the inputs that the cycles have used up. -/
def SameButDirty (s t : State) : Prop := ∃ d l n, t = { s with dirty := d, inputs := l, draws := n }

namespace SameButDirty

variable {s t u : State}

theorem refl (s : State) : SameButDirty s s := ⟨s.dirty, s.inputs, s.draws, rfl⟩

theorem trans (hst : SameButDirty s t) (htu : SameButDirty t u) : SameButDirty s u := by
  obtain ⟨_, _, _, rfl⟩ := hst
  obtain ⟨d, l, n, rfl⟩ := htu
  exact ⟨d, l, n, rfl⟩

theorem halted_eq (h : SameButDirty s t) : t.halted = s.halted := by
  obtain ⟨_, _, _, rfl⟩ := h
  rfl

end SameButDirty

/-- A load after a cycle is refused and changes nothing (R264). -/
theorem transact_load_of_started {s : State} (hstarted : s.started = true) (bytes : List Byte) :
    transact s (.load bytes) = (s, .refused) := by
  simp [transact, State.load, State.loadAdmitted, hstarted]

/-- A cycle of a halted engine writes only the `started` and `tone_stop` that a halted state already has. -/
theorem cycleWith_of_halted {s : State} (h : s.Inv) (hhalted : s.halted = true) (c : CycleInput) :
    SameButDirty s (s.cycleWith c) := by
  obtain ⟨t, ht, hframe⟩ := haltedCycleIsNoOp (s.supply c) hhalted
  have hcycle : s.cycleWith c = t := by simp [State.cycleWith, ht]
  refine ⟨s.dirty, t.inputs, t.draws, hcycle.trans (hframe.trans ?_)⟩
  simp [h.halted_started hhalted, h.halted_tone hhalted]

theorem transact_of_halted {s : State} (h : s.Inv) (hhalted : s.halted = true) {a : Transaction}
    (ha : a ≠ .reset) : SameButDirty s (transact s a).1 := by
  cases a with
  | reset => exact absurd rfl ha
  | load bytes => exact transact_load_of_started (h.halted_started hhalted) bytes ▸ .refl s
  | cycle keys rnd => exact cycleWith_of_halted h hhalted ⟨keys, rnd⟩
  | consumeFrame => exact ⟨false, s.inputs, s.draws, rfl⟩
  | isHalted | lastFault | isDirty | soundTimerActive | readTimers => exact .refl s

/-- Every transaction keeps the invariant and, but for `reset()`, the halt: so the next one finds a halted
engine again. -/
theorem transactAll_of_halted {s : State} (h : s.Inv) (hhalted : s.halted = true) {acts : List Transaction}
    (hacts : .reset ∉ acts) : SameButDirty s (transactAll s acts) := by
  induction acts generalizing s with
  | nil => exact .refl s
  | cons a rest ih =>
    obtain ⟨ha, hrest⟩ := List.ne_and_not_mem_of_not_mem_cons hacts
    have hfirst := transact_of_halted h hhalted (Ne.symm ha)
    exact hfirst.trans (ih (h.of_transact a) (hfirst.halted_eq.trans hhalted) hrest)

/-- Settles O29, by induction on the transactions; the reads are those of any state. -/
theorem haltedIsTerminalUntilReset : Obligations.HaltedIsTerminalUntilReset := by
  intro s h hhalted
  obtain ⟨hisHalted, hfault, hdirty, htimers, hactive, -⟩ := readTransactions s
  rw [hhalted] at hisHalted
  exact ⟨fun _ => transactAll_of_halted h hhalted, transact_load_of_started (h.halted_started hhalted),
    hisHalted, hfault, hdirty, htimers, hactive, rfl, rfl, rfl⟩

end Sys2Proof.Machine

/-! Reset and load (70_reset_and_hazards.md): the two answers of a load, what memory holds after one and two
loads, and the cycle straight after a reset. -/

namespace Sys2Proof.Machine

/-! ## Load (R263 to R265) -/

theorem loadAdmitted_eq_true {s : State} {bytes : List Byte} :
    s.loadAdmitted bytes = true ↔ s.started = false ∧ bytes.length ≤ maxProgram := by
  simp [State.loadAdmitted]

theorem transact_load_of_admitted {s : State} {bytes : List Byte} (h : s.loadAdmitted bytes = true) :
    transact s (.load bytes) = (s.writeM (s.M.writeBytes loadOffset bytes), .ok) := by
  simp [transact, State.load, h]

theorem transact_load_of_not_admitted {s : State} {bytes : List Byte} (h : ¬s.loadAdmitted bytes = true) :
    transact s (.load bytes) = (s, .refused) := by
  simp [transact, State.load, h]

/-- Settles O26: an admitted load is a run of writes from 0x200 that ends inside memory. -/
theorem loadWritesOrIsRefused : Obligations.LoadWritesOrIsRefused := by
  intro s bytes
  refine ⟨fun hstarted hlen => ?_, fun hno => transact_load_of_not_admitted fun hadm => ?_⟩
  · have hroom : loadOffset + bytes.length ≤ memSize := Nat.add_le_add_left hlen loadOffset
    exact ⟨_, transact_load_of_admitted (loadAdmitted_eq_true.2 ⟨hstarted, hlen⟩), rfl,
      fun _ hk => Memory.read_writeBytes_inside bytes s.M hk hroom,
      fun _ ha => Memory.read_writeBytes_outside bytes s.M ha⟩
  · obtain ⟨hstarted, hlen⟩ := loadAdmitted_eq_true.1 hadm
    rcases hno with hno | hno
    · simp [hstarted] at hno
    · exact absurd hlen (Nat.not_le.2 hno)

/-- Settles O27: the first load keeps `started` as it was, so the second is admitted too, and it leaves the
bytes beyond its own length alone. -/
theorem secondLoadOverwrites : Obligations.SecondLoadOverwrites := by
  intro s a b hstarted ha hb
  obtain ⟨t, ht, hframe, hfirst, -⟩ := (loadWritesOrIsRefused s a).1 hstarted ha
  have hstill : t.started = false := by rw [hframe]; exact hstarted
  obtain ⟨u, hu, -, hsecond, hbeyond⟩ := (loadWritesOrIsRefused t b).1 hstill hb
  have hboth : transactAll s [.load a, .load b] = u := by simp [transactAll, ht, hu]
  rw [hboth, ht, hu]
  exact ⟨rfl, rfl, hsecond, fun k hk hbk =>
    (hbeyond (0x200 + k) (.inr (Nat.add_le_add_left hbk _))).trans (hfirst k hk)⟩

/-! ## Reset (R260, R261) -/

/-- Settles O24, by the definition of `reset()`. -/
theorem hostResetRestoresEverything : Obligations.HostResetRestoresEverything := fun _ => rfl

/-- A `cycle(keys, rnd)` transaction on a word that is no instruction halts with that word on record (R231). -/
theorem cycleWith_of_unknownWord {s : State} (c : CycleInput) (hrun : s.halted = false)
    (hpc : s.pc.toNat ≤ 0xFFE) (hdec : decode s.wordAtPc = none) :
    (s.cycleWith c).halted = true ∧
    (s.cycleWith c).fault = some ⟨.unknownOpcode, s.pc, some s.wordAtPc, none⟩ := by
  rcases unknownWordHalts (s.supply c) hrun hpc with ⟨i, hi⟩ | ⟨t, hstep, hframe⟩
  · exact absurd (hdec.symm.trans hi) nofun
  · have hcycle : s.cycleWith c = t := by simp [State.cycleWith, hstep]
    rw [hcycle, hframe]
    exact ⟨rfl, rfl⟩

/-- Settles O25: blank memory gives the word 0x0000 at 0x200, and that word is in the table of unknown words. -/
theorem cycleAfterResetHalts : Obligations.CycleAfterResetHalts := by
  intro s keys rnd
  have hblank : wordOfBytes blankByte blankByte = 0x0000#16 := by decide
  have hword : s.hostReset.wordAtPc = 0x0000#16 := hblank
  have hpc : (0x0200#16).toNat ≤ 0xFFE := by decide
  have hdec : decode s.hostReset.wordAtPc = none := hword ▸ (unknownWordsAreTheTable _).2 (by decide)
  have hcycle := cycleWith_of_unknownWord (s := s.hostReset) ⟨keys, rnd⟩ rfl hpc hdec
  rw [hword] at hcycle
  exact ⟨fun _ => rfl, hcycle⟩

end Sys2Proof.Machine
